-- ==== Sys2Proof/Word.lean ====
section
/-! DEFINITION. The words of the machine: bytes, 16-bit registers and opcodes, the operand fields of an opcode,
and register numbers (00_scope R5, R6; 10_state R20, R21; 30_encoding R92). -/

namespace Sys2Proof

/-- The contents of a general register, a timer or a byte of memory (V_WIDTH, TIMER_WIDTH). -/
abbrev Byte := BitVec 8

/-- The contents of `pc`, `I` and a call-stack entry (PC_WIDTH, I_WIDTH, STACK_ENTRY_WIDTH). -/
abbrev Word16 := BitVec 16

/-- "a 16-bit big-endian encoded instruction word". -/
abbrev Opcode := BitVec 16

/-- The operand NNN, a 12-bit address. -/
abbrev Addr12 := BitVec 12

/-- "a 4-bit slice of an opcode". -/
abbrev Nibble := BitVec 4

/-- The number of a general register, 0 to 15 (R21); also the number of a key (NUM_KEYS = 16). -/
abbrev Reg := Fin 16

/-- The number of `VF`, the register that is also the flag (10_state R24). -/
abbrev regVF : Reg := 15

end Sys2Proof
end

