-- ==== Sys2Proof/Config.lean ====
section
/-! DEFINITION. What is fixed for one machine (00_scope R5): the configuration, a record with the parameters R5 marks
`param`, and the constants it states; and the free values: what the environment answers (47_interfaces), held as
constants without a body, so that no proof can see what they are. -/

namespace Sys2Proof

/-! ### The configuration -/

/-- The parameters of one machine (00_scope R5). A state carries its machine's record and nothing changes it: log 15. -/
structure Config where
  /-- TIME_UNITS_PER_SECOND, the unit of `Now()` (decision D19). -/
  timeUnitsPerSecond : Nat
  /-- TIMER_PERIOD, one 60 Hz period in units of `Now()` (49_cycle_controller R255). -/
  timerPeriod : Nat
  /-- TIME_WIDTH, the bits of `Now()` and `last_timer_tick` (decision D19). -/
  timeWidth : Nat
  /-- FONT_DATA, the FONT_TABLE_SIZE bytes of the font (10_state R36, decision D15). -/
  fontData : Vector Byte 80
  /-- DISPLAY_WIDTH, the framebuffer's width in pixels (decision D16). -/
  displayWidth : Nat
  /-- DISPLAY_HEIGHT, the framebuffer's height in pixels (decision D16). -/
  displayHeight : Nat
deriving DecidableEq, Repr

/-- What the spec demands of the parameters: the period is the whole number nearest to a sixtieth of a second and at
least 1 (49_cycle_controller R255), and the display's size, which divides, is positive (42_alu R170). -/
def Config.wf (c : Config) : Bool :=
  decide (1 ≤ c.timerPeriod) && decide (60 * c.timerPeriod ≤ c.timeUnitsPerSecond + 30) &&
    decide (c.timeUnitsPerSecond ≤ 60 * c.timerPeriod + 30) && decide (0 < c.displayWidth) &&
    decide (0 < c.displayHeight)

/-- The 80 font bytes of 10_state R36, one glyph a line. Log 7. -/
def Config.specFont : List Byte :=
  [0xF0, 0x90, 0x90, 0x90, 0xF0] ++ [0x20, 0x60, 0x20, 0x20, 0x70] ++   -- 0 1
  [0xF0, 0x10, 0xF0, 0x80, 0xF0] ++ [0xF0, 0x10, 0xF0, 0x10, 0xF0] ++   -- 2 3
  [0x90, 0x90, 0xF0, 0x10, 0x10] ++ [0xF0, 0x80, 0xF0, 0x10, 0xF0] ++   -- 4 5
  [0xF0, 0x80, 0xF0, 0x90, 0xF0] ++ [0xF0, 0x10, 0x20, 0x40, 0x40] ++   -- 6 7
  [0xF0, 0x90, 0xF0, 0x90, 0xF0] ++ [0xF0, 0x90, 0xF0, 0x10, 0xF0] ++   -- 8 9
  [0xF0, 0x90, 0xF0, 0x90, 0x90] ++ [0xE0, 0x90, 0xE0, 0x90, 0xE0] ++   -- A B
  [0xF0, 0x80, 0x80, 0x80, 0xF0] ++ [0xE0, 0x90, 0x90, 0x90, 0xE0] ++   -- C D
  [0xF0, 0x80, 0xF0, 0x80, 0xF0] ++ [0xF0, 0x80, 0xF0, 0x80, 0x80]      -- E F

/-- The values "this spec uses in every test vector" (00_scope R5). Log 5, 7, 10. -/
def Config.spec : Config :=
  { timeUnitsPerSecond := 1000000
    timerPeriod := 16667
    timeWidth := 64
    fontData := ⟨⟨Config.specFont⟩, rfl⟩
    displayWidth := 64
    displayHeight := 32 }

/-! ### The constants -/

/-- MEM_SIZE: addresses run from 0 to 4095 (20_memory R60). -/
abbrev Config.memSize : Nat := 4096

/-- LOAD_OFFSET: the reset value of `pc` and the address of an image's first byte (00_scope R5). -/
def Config.loadOffset : Word16 := 0x200#16

/-- FONT_BASE: the address of the first font byte (00_scope R5). -/
def Config.fontBase : Nat := 0

/-- GLYPH_SIZE: the bytes of one glyph (00_scope R5). -/
def Config.glyphSize : Nat := 5

/-! ### The free values -/

/-- Whether the pixel `(x, y)` is set before the core ever ran: arbitrary (47_interfaces R224; 93 U16). Log 2. -/
opaque Config.fbAtPowerOn : Nat → Nat → Bool

/-- The n-th draw of `ShouldQuit()` (47_interfaces R231; 93 U14). Log 1. -/
opaque Config.quitAt : Nat → Bool

/-- The n-th draw of the time source, before its width and monotonicity are imposed (47_interfaces R230; 93 U12).
Log 3. -/
opaque Config.nowAt : Nat → Nat

/-- The n-th draw of `RandByte()` (47_interfaces R229; 93 U11). Log 1. -/
opaque Config.randAt : Nat → Byte

/-- The n-th draw of the key state, bit k for key k (47_interfaces R225, R227; 93 U13). Log 1. -/
opaque Config.keysAt : Nat → BitVec 16

/-- The n-th draw of the key that `GetPressedKey()` prefers (47_interfaces R226; 93 U13). Log 4. -/
opaque Config.keyPickAt : Nat → Reg

end Sys2Proof
end

