-- ==== Sys2Proof/Machine/Env.lean ====
section
/-! DEFINITION. The environment the core talks to (47_interfaces): the reference model of the display collaborator
(R224) and the answers the environment gives in the next tick, as plain data. The answers are free values: after every
completed tick they are drawn anew from the constants without a body of Config. -/

namespace Sys2Proof.Machine

/-- The monochrome pixel grid of the display collaborator (R224): the pixels that are set, as pairs `(x, y)`. -/
abbrev Framebuffer := List (Nat × Nat)

/-- The environment's state, none of it the core's (10_state R39). -/
structure Env where
  /-- The framebuffer of the display collaborator (R224). -/
  fb : Framebuffer
  /-- The answer of `ShouldQuit()` in the next tick (R231). -/
  quit : Bool
  /-- The answer of `Now()` in the next tick, below `2 ^ TIME_WIDTH` (R230). Log 3. -/
  now : Nat
  /-- The answer of `RandByte()` in the next tick (R229). -/
  rnd : Byte
  /-- Bit `k` tells whether key `k` is pressed in the next tick (R225). -/
  keys : BitVec 16
  /-- The pressed key the collaborator prefers to report in the next tick (R226). -/
  keyPick : Reg
  /-- The model's own: the index of the draw the answers above come from. -/
  draws : Nat
deriving DecidableEq, Repr

/-! ### Display (47_interfaces R222 to R224) -/

/-- Whether the pixel is set. -/
def pixel (fb : Framebuffer) (x y : Nat) : Bool := decide ((x, y) ∈ fb)

/-- The order of the pixels in the list: row by row, from left to right. -/
def pixelBefore (p q : Nat × Nat) : Bool := decide (p.2 < q.2) || (decide (p.2 = q.2) && decide (p.1 < q.1))

/-- The picture with one more pixel set, put in its place. -/
def insertPixel : Framebuffer → Nat × Nat → Framebuffer
  | [], p => [p]
  | q :: fb, p => if pixelBefore p q then p :: q :: fb else q :: insertPixel fb p

/-- The picture with one pixel toggled. -/
def togglePixel (fb : Framebuffer) (x y : Nat) : Framebuffer :=
  if pixel fb x y then fb.filter fun p => decide (p ≠ (x, y)) else insertPixel fb (x, y)

/-- `DispSetPixel(x, y)`: "toggles the pixel at (x, y) (on→off or off→on) and returns whether it was previously set"
(R223). -/
def dispSetPixel (fb : Framebuffer) (x y : Nat) : Framebuffer × Bool := (togglePixel fb x y, pixel fb x y)

/-- `DispClear()`: "sets all framebuffer pixels to unset" (R222). -/
def dispClear (_ : Framebuffer) : Framebuffer := []

/-- Every pixel of the list lies in the grid of the machine `c`, and the list is in order without repeats, so that equal
pictures are equal data. -/
def Framebuffer.wf (c : Config) (fb : Framebuffer) : Bool :=
  decide (fb.Pairwise fun p q => pixelBefore p q = true) &&
    fb.all fun p => decide (p.1 < c.displayWidth) && decide (p.2 < c.displayHeight)

/-- The picture of the grid of the machine `c` whose pixels `f` gives. -/
def Framebuffer.ofFn (c : Config) (f : Nat → Nat → Bool) : Framebuffer :=
  (List.range c.displayHeight).flatMap fun y =>
    ((List.range c.displayWidth).filter fun x => f x y).map fun x => (x, y)

/-! ### Keypad (47_interfaces R225, R226) -/

/-- `KeyPressed(k)`: whether key `k` is pressed now. -/
def keyPressed (e : Env) (k : Reg) : Bool := e.keys.getLsbD k.val

/-- `GetPressedKey()`: none exactly when no key is pressed, else the number of a pressed key of the environment's
choice (R226): the preferred key when it is pressed, else the lowest pressed one. Every pressed key is the answer for
some preference, so the choice is free. Log 4. -/
def getPressedKey (e : Env) : Option Reg :=
  if keyPressed e e.keyPick then some e.keyPick else (List.finRange 16).find? (keyPressed e)

/-! ### The draws -/

/-- A draw of the time source as a time of the machine `c`, of TIME_WIDTH bits. -/
def timeDraw (c : Config) (n : Nat) : Nat := Config.nowAt n % 2 ^ c.timeWidth

/-- `Now()` as the environment gives it after it gave `t`: successive answers never decrease and never wrap (R230).
Log 3. -/
def nextNow (t draw : Nat) : Nat := if t ≤ draw then draw else t

/-- The environment before its next tick: every answer drawn anew, the framebuffer left alone (R224, R227). Log 1. -/
def Env.redraw (c : Config) (e : Env) : Env :=
  { fb := e.fb
    quit := Config.quitAt (e.draws + 1)
    now := nextNow e.now (timeDraw c (e.draws + 1))
    rnd := Config.randAt (e.draws + 1)
    keys := Config.keysAt (e.draws + 1)
    keyPick := Config.keyPickAt (e.draws + 1)
    draws := e.draws + 1 }

/-- The environment of the machine `c` before the core was ever reset: draw number 0, an arbitrary framebuffer (R224).
Log 2. -/
def Env.powerOn (c : Config) : Env :=
  { fb := Framebuffer.ofFn c Config.fbAtPowerOn
    quit := Config.quitAt 0
    now := timeDraw c 0
    rnd := Config.randAt 0
    keys := Config.keysAt 0
    keyPick := Config.keyPickAt 0
    draws := 0 }

end Sys2Proof.Machine
end

