-- ==== Sys2Proof/Syntax.lean ====
section
/-! DEFINITION. The instructions of the core: one constructor for each row of spec/opcode_table.json
(30_encoding R96), carrying the operands of its format (R91, R92). -/

namespace Sys2Proof

/-- "a closed tagged-variant type (one case per semantic operation, carrying only the operands that family needs)"
(30_encoding R94). `x` and `y` are register numbers, `kk` the immediate byte, `nnn` the address, `n` the row count of
DRW, a count of rows, which is well formed up to 15. -/
inductive Instr where
  /-- CLS `00E0`, clear display (44_display_keypad R190). -/
  | cls
  /-- RET `00EE`, return from subroutine (40_control_transfer R123). -/
  | ret
  /-- JP `1NNN`, jump (R121). -/
  | jp (nnn : Addr12)
  /-- CALL `2NNN`, call subroutine (R122). -/
  | call (nnn : Addr12)
  /-- SE_IMM `3XKK`, skip if equal, immediate (R124). -/
  | seImm (x : Reg) (kk : Byte)
  /-- SNE_IMM `4XKK`, skip if not equal, immediate (R125). -/
  | sneImm (x : Reg) (kk : Byte)
  /-- SE_REG `5XY0`, skip if equal, register (R126). -/
  | seReg (x y : Reg)
  /-- LD_IMM `6XKK`, set register to immediate (41_immediate_index_random R140). -/
  | ldImm (x : Reg) (kk : Byte)
  /-- ADD_IMM `7XKK`, add immediate, sets VF (R141). -/
  | addImm (x : Reg) (kk : Byte)
  /-- LD_REG `8XY0`, register copy (42_alu R161). -/
  | ldReg (x y : Reg)
  /-- OR `8XY1` (R162). -/
  | orReg (x y : Reg)
  /-- AND `8XY2` (R163). -/
  | andReg (x y : Reg)
  /-- XOR `8XY3` (R164). -/
  | xorReg (x y : Reg)
  /-- ADD_REG `8XY4` (R165). -/
  | addReg (x y : Reg)
  /-- SUB `8XY5`, `VX - VY` (R166). -/
  | sub (x y : Reg)
  /-- SHR `8XY6`, shift right by one; `y` is decoded and ignored (R167, 30_encoding R98). -/
  | shr (x y : Reg)
  /-- SUBN `8XY7`, `VY - VX` (R168). -/
  | subn (x y : Reg)
  /-- SHL `8XYE`, shift left by one; `y` is decoded and ignored (R169, 30_encoding R98). -/
  | shl (x y : Reg)
  /-- SNE_REG `9XY0`, skip if not equal, register (40_control_transfer R127). -/
  | sneReg (x y : Reg)
  /-- LD_I `ANNN`, set index (41_immediate_index_random R142). -/
  | ldI (nnn : Addr12)
  /-- JP_I `BNNN`, jump with offset: the index register is added (40_control_transfer R128). -/
  | jpI (nnn : Addr12)
  /-- RND `CXKK`, random byte AND mask (41_immediate_index_random R145). -/
  | rnd (x : Reg) (kk : Byte)
  /-- DRW `DXYN`, draw sprite of `n` rows (44_display_keypad R191). -/
  | drw (x y : Reg) (n : Nat)
  /-- SKP `EX9E`, skip if key pressed (R192). -/
  | skp (x : Reg)
  /-- SKNP `EXA1`, skip if key not pressed (R193). -/
  | sknp (x : Reg)
  /-- LD_VX_DT `FX07`, read delay timer (45_timers R210). -/
  | ldVxDt (x : Reg)
  /-- LD_VX_K `FX0A`, block for key (44_display_keypad R194). -/
  | ldVxK (x : Reg)
  /-- LD_DT_VX `FX15`, write delay timer (45_timers R211). -/
  | ldDtVx (x : Reg)
  /-- LD_ST_VX `FX18`, write sound timer (45_timers R212). -/
  | ldStVx (x : Reg)
  /-- ADD_I `FX1E`, add register to index (41_immediate_index_random R143). -/
  | addI (x : Reg)
  /-- LD_F `FX29`, font character address (R144). -/
  | ldF (x : Reg)
  /-- LD_B `FX33`, decimal digits to memory (43_memory_ops R180). -/
  | ldB (x : Reg)
  /-- ST_REGS `FX55`, store V0 to VX (R181). -/
  | stRegs (x : Reg)
  /-- LD_REGS `FX65`, load V0 to VX (R182). -/
  | ldRegs (x : Reg)
deriving DecidableEq, Repr

end Sys2Proof
end

