-- ==== Sys2Proof/WellFormed.lean ====
section
/-! DEFINITION. Which terms of Instr are instructions: the row count of DRW is a 4-bit field, 0 to 15 (30_encoding
R92, R93); every other operand has exactly the values of its field by its type. -/

namespace Sys2Proof

/-- The check, for every constructor. -/
def Instr.wellFormed : Instr → Bool
  | .cls | .ret => true
  | .jp _ | .call _ | .ldI _ | .jpI _ => true
  | .seImm _ _ | .sneImm _ _ | .ldImm _ _ | .addImm _ _ | .rnd _ _ => true
  | .seReg _ _ | .sneReg _ _ => true
  | .ldReg _ _ | .orReg _ _ | .andReg _ _ | .xorReg _ _ | .addReg _ _ => true
  | .sub _ _ | .shr _ _ | .subn _ _ | .shl _ _ => true
  | .drw _ _ n => decide (n < 16)
  | .skp _ | .sknp _ => true
  | .ldVxDt _ | .ldVxK _ | .ldDtVx _ | .ldStVx _ | .addI _ | .ldF _ | .ldB _ | .stRegs _ | .ldRegs _ => true

/-- The instruction is one that an opcode can encode. -/
abbrev Instr.WellFormed (i : Instr) : Prop := i.wellFormed = true

end Sys2Proof
end

