-- ==== Sys2Proof/Decode.lean ====
section
/-! DEFINITION. The decoder, a total function of the opcode alone (30_encoding R94, R104), and the encoder, both
written from the opcode table of R96; the table itself as data. -/

namespace Sys2Proof

/-! ### Field extraction (30_encoding R91, R92) -/

/-- The group selector `op[15:12]`. -/
def groupField (op : Opcode) : Nibble := op.extractLsb' 12 4

/-- `X = op[11:8]`. -/
def xField (op : Opcode) : Reg := (op.extractLsb' 8 4).toFin

/-- `Y = op[7:4]`. -/
def yField (op : Opcode) : Reg := (op.extractLsb' 4 4).toFin

/-- `N = op[3:0]`, also the sub-operation selector of format R. -/
def nField (op : Opcode) : Nibble := op.extractLsb' 0 4

/-- `KK = op[7:0]`, also the selector byte of format S. -/
def kkField (op : Opcode) : Byte := op.extractLsb' 0 8

/-- `NNN = op[11:0]`. -/
def nnnField (op : Opcode) : Addr12 := op.extractLsb' 0 12

/-! ### The decoder -/

/-- The one error of the decoder, "carrying the raw opcode for diagnostics" (30_encoding R94). -/
inductive DecodeError where
  /-- The opcode matches none of the 34 patterns (R97); the controller takes the InvalidInstruction fault. -/
  | invalidInstruction (op : Opcode)
deriving DecidableEq, Repr

/-- The five dispatch groups (30_encoding R95, R96): the instruction an opcode stands for, if any. -/
def classify (op : Opcode) : Option Instr :=
  match groupField op with
  | 0x0#4 =>
    match op with
    | 0x00E0#16 => some .cls
    | 0x00EE#16 => some .ret
    | _ => none
  | 0x1#4 => some (.jp (nnnField op))
  | 0x2#4 => some (.call (nnnField op))
  | 0x3#4 => some (.seImm (xField op) (kkField op))
  | 0x4#4 => some (.sneImm (xField op) (kkField op))
  | 0x5#4 => if nField op = 0x0#4 then some (.seReg (xField op) (yField op)) else none
  | 0x6#4 => some (.ldImm (xField op) (kkField op))
  | 0x7#4 => some (.addImm (xField op) (kkField op))
  | 0x8#4 =>
    match nField op with
    | 0x0#4 => some (.ldReg (xField op) (yField op))
    | 0x1#4 => some (.orReg (xField op) (yField op))
    | 0x2#4 => some (.andReg (xField op) (yField op))
    | 0x3#4 => some (.xorReg (xField op) (yField op))
    | 0x4#4 => some (.addReg (xField op) (yField op))
    | 0x5#4 => some (.sub (xField op) (yField op))
    | 0x6#4 => some (.shr (xField op) (yField op))
    | 0x7#4 => some (.subn (xField op) (yField op))
    | 0xE#4 => some (.shl (xField op) (yField op))
    | _ => none
  | 0x9#4 => if nField op = 0x0#4 then some (.sneReg (xField op) (yField op)) else none
  | 0xA#4 => some (.ldI (nnnField op))
  | 0xB#4 => some (.jpI (nnnField op))
  | 0xC#4 => some (.rnd (xField op) (kkField op))
  | 0xD#4 => some (.drw (xField op) (yField op) (nField op).toNat)
  | 0xE#4 =>
    match kkField op with
    | 0x9E#8 => some (.skp (xField op))
    | 0xA1#8 => some (.sknp (xField op))
    | _ => none
  | 0xF#4 =>
    match kkField op with
    | 0x07#8 => some (.ldVxDt (xField op))
    | 0x0A#8 => some (.ldVxK (xField op))
    | 0x15#8 => some (.ldDtVx (xField op))
    | 0x18#8 => some (.ldStVx (xField op))
    | 0x1E#8 => some (.addI (xField op))
    | 0x29#8 => some (.ldF (xField op))
    | 0x33#8 => some (.ldB (xField op))
    | 0x55#8 => some (.stRegs (xField op))
    | 0x65#8 => some (.ldRegs (xField op))
    | _ => none
  | _ => none

/-- `decode(opcode) -> Result<Instruction, DecodeError>` (30_encoding R94). -/
def decode (op : Opcode) : Except DecodeError Instr :=
  match classify op with
  | some i => .ok i
  | none => .error (.invalidInstruction op)

/-- The decoder on bytes as memory holds them, the first byte the opcode's high byte (20_memory R67): the instruction
and the bytes after it. Fewer than two bytes are "a zero-valued opcode" (20_memory R66), which is invalid. -/
def decodeBytes : List Byte → Except DecodeError (Instr × List Byte)
  | hi :: lo :: rest =>
    match decode (hi ++ lo) with
    | .ok i => .ok (i, rest)
    | .error e => .error e
  | _ => .error (.invalidInstruction 0x0000#16)

/-! ### The encoder, from the formats of 30_encoding R91 and the table of R96 -/

/-- A register number as the bits of a register field. -/
def regBits (r : Reg) : Nibble := BitVec.ofFin r

/-- Format A: group, NNN. -/
def formatA (g : Nibble) (nnn : Addr12) : Opcode := g ++ nnn

/-- Formats I and S: group, X, and the immediate byte KK or the selector byte. -/
def formatI (g : Nibble) (x : Reg) (kk : Byte) : Opcode := g ++ (regBits x ++ kk)

/-- Formats R and D: group, X, Y, and the sub-operation selector or N. -/
def formatR (g : Nibble) (x y : Reg) (n : Nibble) : Opcode := g ++ (regBits x ++ (regBits y ++ n))

/-- The opcode of an instruction (of an ill-formed DRW, the opcode with the low four bits of its row count). -/
def encode : Instr → Opcode
  | .cls => 0x00E0#16
  | .ret => 0x00EE#16
  | .jp nnn => formatA 0x1#4 nnn
  | .call nnn => formatA 0x2#4 nnn
  | .seImm x kk => formatI 0x3#4 x kk
  | .sneImm x kk => formatI 0x4#4 x kk
  | .seReg x y => formatR 0x5#4 x y 0x0#4
  | .ldImm x kk => formatI 0x6#4 x kk
  | .addImm x kk => formatI 0x7#4 x kk
  | .ldReg x y => formatR 0x8#4 x y 0x0#4
  | .orReg x y => formatR 0x8#4 x y 0x1#4
  | .andReg x y => formatR 0x8#4 x y 0x2#4
  | .xorReg x y => formatR 0x8#4 x y 0x3#4
  | .addReg x y => formatR 0x8#4 x y 0x4#4
  | .sub x y => formatR 0x8#4 x y 0x5#4
  | .shr x y => formatR 0x8#4 x y 0x6#4
  | .subn x y => formatR 0x8#4 x y 0x7#4
  | .shl x y => formatR 0x8#4 x y 0xE#4
  | .sneReg x y => formatR 0x9#4 x y 0x0#4
  | .ldI nnn => formatA 0xA#4 nnn
  | .jpI nnn => formatA 0xB#4 nnn
  | .rnd x kk => formatI 0xC#4 x kk
  | .drw x y n => formatR 0xD#4 x y (BitVec.ofNat 4 n)
  | .skp x => formatI 0xE#4 x 0x9E#8
  | .sknp x => formatI 0xE#4 x 0xA1#8
  | .ldVxDt x => formatI 0xF#4 x 0x07#8
  | .ldVxK x => formatI 0xF#4 x 0x0A#8
  | .ldDtVx x => formatI 0xF#4 x 0x15#8
  | .ldStVx x => formatI 0xF#4 x 0x18#8
  | .addI x => formatI 0xF#4 x 0x1E#8
  | .ldF x => formatI 0xF#4 x 0x29#8
  | .ldB x => formatI 0xF#4 x 0x33#8
  | .stRegs x => formatI 0xF#4 x 0x55#8
  | .ldRegs x => formatI 0xF#4 x 0x65#8

/-- `op[15:8]`, the byte at the lower address (20_memory R67). -/
def highByte (op : Opcode) : Byte := op.extractLsb' 8 8

/-- `op[7:0]`, the byte at the higher address (20_memory R67). -/
def lowByte (op : Opcode) : Byte := op.extractLsb' 0 8

/-- The two bytes of an opcode in the order memory holds them. -/
def opcodeBytes (op : Opcode) : List Byte := [highByte op, lowByte op]

/-- The opcode with the table's numbering: bit 0 of `w` is bit 0 of the one 16-bit word; bits from `nbits` on are 0. -/
def tableWord (nbits w : Nat) : Opcode := BitVec.ofNat 16 (w % 2 ^ nbits)

/-- What this decoder reads from the word `w` of `nbits` bits, laid out in bytes as memory holds it. -/
def decodeTableWord (nbits w : Nat) : Option Instr :=
  match decodeBytes (opcodeBytes (tableWord nbits w)) with
  | .ok (i, _) => some i
  | .error _ => none

/-! ### The opcode table as data (30_encoding R96) -/

/-- One row of the opcode table: an opcode selects it when `op & mask = pattern`. -/
structure OpcodeRow where
  mnemonic : String
  mask : Opcode
  pattern : Opcode
deriving DecidableEq, Repr

/-- The opcode selects the row. -/
abbrev OpcodeRow.Matches (r : OpcodeRow) (op : Opcode) : Prop := op &&& r.mask = r.pattern

/-- The mnemonic of an instruction in the opcode table. -/
def Instr.mnemonic : Instr → String
  | .cls => "CLS"
  | .ret => "RET"
  | .jp _ => "JP"
  | .call _ => "CALL"
  | .seImm _ _ => "SE_IMM"
  | .sneImm _ _ => "SNE_IMM"
  | .seReg _ _ => "SE_REG"
  | .ldImm _ _ => "LD_IMM"
  | .addImm _ _ => "ADD_IMM"
  | .ldReg _ _ => "LD_REG"
  | .orReg _ _ => "OR"
  | .andReg _ _ => "AND"
  | .xorReg _ _ => "XOR"
  | .addReg _ _ => "ADD_REG"
  | .sub _ _ => "SUB"
  | .shr _ _ => "SHR"
  | .subn _ _ => "SUBN"
  | .shl _ _ => "SHL"
  | .sneReg _ _ => "SNE_REG"
  | .ldI _ => "LD_I"
  | .jpI _ => "JP_I"
  | .rnd _ _ => "RND"
  | .drw _ _ _ => "DRW"
  | .skp _ => "SKP"
  | .sknp _ => "SKNP"
  | .ldVxDt _ => "LD_VX_DT"
  | .ldVxK _ => "LD_VX_K"
  | .ldDtVx _ => "LD_DT_VX"
  | .ldStVx _ => "LD_ST_VX"
  | .addI _ => "ADD_I"
  | .ldF _ => "LD_F"
  | .ldB _ => "LD_B"
  | .stRegs _ => "ST_REGS"
  | .ldRegs _ => "LD_REGS"

/-- The 34 rows of 30_encoding R96, in its order. -/
def opcodeTable : List OpcodeRow :=
  [⟨"CLS", 0xFFFF, 0x00E0⟩, ⟨"RET", 0xFFFF, 0x00EE⟩, ⟨"JP", 0xF000, 0x1000⟩, ⟨"CALL", 0xF000, 0x2000⟩] ++
  [⟨"SE_IMM", 0xF000, 0x3000⟩, ⟨"SNE_IMM", 0xF000, 0x4000⟩, ⟨"SE_REG", 0xF00F, 0x5000⟩] ++
  [⟨"LD_IMM", 0xF000, 0x6000⟩, ⟨"ADD_IMM", 0xF000, 0x7000⟩, ⟨"LD_REG", 0xF00F, 0x8000⟩] ++
  [⟨"OR", 0xF00F, 0x8001⟩, ⟨"AND", 0xF00F, 0x8002⟩, ⟨"XOR", 0xF00F, 0x8003⟩, ⟨"ADD_REG", 0xF00F, 0x8004⟩] ++
  [⟨"SUB", 0xF00F, 0x8005⟩, ⟨"SHR", 0xF00F, 0x8006⟩, ⟨"SUBN", 0xF00F, 0x8007⟩, ⟨"SHL", 0xF00F, 0x800E⟩] ++
  [⟨"SNE_REG", 0xF00F, 0x9000⟩, ⟨"LD_I", 0xF000, 0xA000⟩, ⟨"JP_I", 0xF000, 0xB000⟩, ⟨"RND", 0xF000, 0xC000⟩] ++
  [⟨"DRW", 0xF000, 0xD000⟩, ⟨"SKP", 0xF0FF, 0xE09E⟩, ⟨"SKNP", 0xF0FF, 0xE0A1⟩] ++
  [⟨"LD_VX_DT", 0xF0FF, 0xF007⟩, ⟨"LD_VX_K", 0xF0FF, 0xF00A⟩, ⟨"LD_DT_VX", 0xF0FF, 0xF015⟩] ++
  [⟨"LD_ST_VX", 0xF0FF, 0xF018⟩, ⟨"ADD_I", 0xF0FF, 0xF01E⟩, ⟨"LD_F", 0xF0FF, 0xF029⟩] ++
  [⟨"LD_B", 0xF0FF, 0xF033⟩, ⟨"ST_REGS", 0xF0FF, 0xF055⟩, ⟨"LD_REGS", 0xF0FF, 0xF065⟩]

end Sys2Proof
end

