-- ==== Sys2Proof/Machine/Memory.lean ====
section
/-! DEFINITION. The memory of the core (20_memory): 4096 bytes, held as the list of the bytes that differ from the
reset contents, in one canonical form. -/

namespace Sys2Proof.Machine

/-- The bytes of memory that differ from their reset contents: addresses strictly rising, below 4096. -/
abbrev Memory := List Host.Cell

/-- What an address not listed holds on the machine `c`: the contents after reset, FONT_DATA from FONT_BASE on, 0x00
everywhere else (10_state R36, R41). -/
def resetByte (c : Config) (a : Nat) : Byte :=
  if h : Config.fontBase ≤ a ∧ a - Config.fontBase < 80 then c.fontData[a - Config.fontBase]'h.2 else 0x00#8

/-- `MemRead(addr, 1)`, without side effect (20_memory R63). -/
def Memory.read (c : Config) : Memory → Nat → Byte
  | [], a => resetByte c a
  | (b, w) :: m, a => if a = b then w else Memory.read c m a

/-- The memory without an entry for `a`, which then holds its reset contents. -/
def Memory.erase (m : Memory) (a : Nat) : Memory := m.filter fun e => decide (e.1 ≠ a)

/-- The memory with the entry `(a, v)`, put where the addresses keep rising. -/
def Memory.insert : Memory → Nat → Byte → Memory
  | [], a, v => [(a, v)]
  | (b, w) :: m, a, v =>
    if a < b then (a, v) :: (b, w) :: m
    else if a = b then (a, v) :: m
    else (b, w) :: Memory.insert m a v

/-- `MemWrite(addr, 1, v)` (20_memory R64), keeping the canonical form: a byte that returns to its reset contents is no
longer listed. -/
def Memory.write (c : Config) (m : Memory) (a : Nat) (v : Byte) : Memory :=
  if v = resetByte c a then Memory.erase m a else Memory.insert m a v

/-- Single-byte writes to ascending addresses from `a` (20_memory R67, R69). -/
def Memory.writeBytes (c : Config) (m : Memory) (a : Nat) : List Byte → Memory
  | [] => m
  | v :: vs => Memory.writeBytes c (Memory.write c m a v) (a + 1) vs

/-- `n` single-byte reads from ascending addresses from `a`. -/
def Memory.readBytes (c : Config) (m : Memory) (a n : Nat) : List Byte :=
  (List.range n).map fun k => Memory.read c m (a + k)

/-- `FetchWord(addr)`: big-endian, no alignment, the whole opcode zero when either byte lies above address 4095
(20_memory R66, R67, R68). -/
def Memory.fetchWord (c : Config) (m : Memory) (a : Word16) : Opcode :=
  if a.toNat + 1 ≤ 4095 then Memory.read c m a.toNat ++ Memory.read c m (a.toNat + 1) else 0x0000#16

/-- Addresses strictly rising from `lo` on and below 4096, and no entry equal to the reset contents. -/
def Memory.wfFrom (c : Config) : Nat → Memory → Bool
  | _, [] => true
  | lo, (a, v) :: m =>
    decide (lo ≤ a) && decide (a < Config.memSize) && decide (v ≠ resetByte c a) && Memory.wfFrom c (a + 1) m

/-- The canonical form, so that equal memories are equal data. -/
def Memory.wf (c : Config) (m : Memory) : Bool := Memory.wfFrom c 0 m

end Sys2Proof.Machine
end

