-- ==== Sys2Proof/Machine/State.lean ====
section
/-! DEFINITION. The state of the machine as plain data: every element of 10_state R20, the environment of R39 beside
it, one bit of the model's own, the configuration; the reasons to stop; the state after reset (R41). -/

namespace Sys2Proof.Machine

/-- `run_state` (10_state R37). -/
inductive RunState where
  /-- Ticks execute instructions. -/
  | running
  /-- A fatal error was raised; left only by reset. -/
  | faulted
  /-- The quit signal was seen; left only by reset. -/
  | stopped
deriving DecidableEq, Repr

/-- `fault_kind` (10_state R38). -/
inductive FaultKind where
  /-- NONE. -/
  | noFault
  /-- The fetched opcode matches no pattern (60_exceptions R281). -/
  | invalidInstruction
  /-- CALL with `sp = 16` (R282). -/
  | stackOverflow
  /-- RET with `sp = 0` (R284). -/
  | stackUnderflow
  /-- A data access whose footprint ends above address 4095 (R285). -/
  | memoryOutOfRange
  /-- A key test with `VX > 15` (R286). -/
  | keyIndexOutOfRange
deriving DecidableEq, Repr

/-- The machine state. -/
structure State where
  /-- `V[0..15]` (10_state R21). -/
  v : Vector Byte 16
  /-- `pc` (R26). -/
  pc : Word16
  /-- `I`, the index register (R29). -/
  idx : Word16
  /-- `stack[0..15]` (R30). -/
  stack : Vector Word16 16
  /-- `sp`, the count of addresses on the stack, 0 to 16 (R31). Log 9. -/
  sp : Fin 17
  /-- `dt`, the delay timer (R32). -/
  dt : Byte
  /-- `st`, the sound timer (R33). -/
  st : Byte
  /-- `last_timer_tick` (R34), a time of TIME_WIDTH bits. -/
  lastTimerTick : Nat
  /-- `mem[0..4095]` (R35). -/
  mem : Memory
  /-- `run_state` (R37). -/
  runState : RunState
  /-- `fault_kind` (R38). -/
  faultKind : FaultKind
  /-- `fault_opcode` (R38). -/
  faultOpcode : Opcode
  /-- `fault_addr` (R38). -/
  faultAddr : Word16
  /-- The model's own: a tick has completed since reset, so the host may no longer load an image (70 R314 (b)). Log 6. -/
  started : Bool
  /-- The environment (R39), not the core's. Log 1. -/
  env : Env
  /-- The configuration of this machine (00_scope R5), not state: nothing changes it. Log 15. -/
  config : Config
deriving DecidableEq, Repr

/-- Reasons for the MODEL to stop with a fault: none. The five faults of the hardware have an entry the spec describes
(60_exceptions R283), so they are next states with `runState = faulted`, and every access to memory is range checked
before it is made (20_memory R65); nothing raises a value of this type, which is safe. Log 8. -/
inductive Fault
deriving DecidableEq, Repr

/-- Reasons for the model to refuse. -/
inductive Refusal where
  /-- Raised by an arm of exec whose instruction has no meaning yet: safe. No arm does. -/
  | notModelled (mnemonic : String)
  /-- Raised by loadImage for an image longer than 3584 bytes, which has no defined effect (70_reset_and_hazards R314
  (a); 93 U9): safe. -/
  | imageTooLong
  /-- Raised by loadImage once a tick was completed or the run has ended, which is not defined (R314 (b); 93 U10):
  safe. -/
  | loadAfterFirstTick
deriving DecidableEq, Repr

/-- The state a reset leaves on the machine `c` when the environment is `e` (10_state R41, 70_reset_and_hazards R310):
every element of the core written; `last_timer_tick` the value of `Now()` sampled at reset; the collaborator untouched,
its next answers drawn anew. -/
def State.resetWith (c : Config) (e : Env) : State :=
  { v := Vector.replicate 16 0x00#8
    pc := Config.loadOffset
    idx := 0x0000#16
    stack := Vector.replicate 16 0x0000#16
    sp := 0
    dt := 0x00#8
    st := 0x00#8
    lastTimerTick := e.now
    mem := []
    runState := .running
    faultKind := .noFault
    faultOpcode := 0x0000#16
    faultAddr := 0x0000#16
    started := false
    env := e.redraw c
    config := c }

/-- The machine with the parameter values of the spec right after the first reset. Log 15. -/
def State.reset : State := State.resetWith Config.spec (Env.powerOn Config.spec)

end Sys2Proof.Machine
end

