-- ==== Sys2Proof/Machine/Ops.lean ====
section
/-! DEFINITION. The named operations over the state: one update per element, register and memory access, program
counter moves, the call stack, fault entry, the timer check, the host's moves, the outputs. -/

namespace Sys2Proof.Machine

/-! ### One update per element (00_scope R8) -/

/-- `V[r] <- b`. -/
def State.setV (s : State) (r : Reg) (b : Byte) : State := { s with v := s.v.set r.val b r.isLt }

/-- The whole register file at once. -/
def State.setRegs (s : State) (v : Vector Byte 16) : State := { s with v := v }

/-- `pc <- w`. -/
def State.setPc (s : State) (w : Word16) : State := { s with pc := w }

/-- `I <- w`. -/
def State.setIdx (s : State) (w : Word16) : State := { s with idx := w }

/-- `stack[k] <- w`. -/
def State.setStackEntry (s : State) (k : Fin 16) (w : Word16) : State := { s with stack := s.stack.set k.val w k.isLt }

/-- `sp <- n`. -/
def State.setSp (s : State) (n : Fin 17) : State := { s with sp := n }

/-- `dt <- b`. -/
def State.setDt (s : State) (b : Byte) : State := { s with dt := b }

/-- `st <- b`. -/
def State.setSt (s : State) (b : Byte) : State := { s with st := b }

/-- `last_timer_tick <- t`. -/
def State.setLastTimerTick (s : State) (t : Nat) : State := { s with lastTimerTick := t }

/-- The memory. -/
def State.setMem (s : State) (m : Memory) : State := { s with mem := m }

/-- `run_state <- r`. -/
def State.setRunState (s : State) (r : RunState) : State := { s with runState := r }

/-- The three fault registers. -/
def State.setFaultRegs (s : State) (k : FaultKind) (op : Opcode) (a : Word16) : State :=
  { s with faultKind := k, faultOpcode := op, faultAddr := a }

/-- The model's own bit. -/
def State.setStarted (s : State) (b : Bool) : State := { s with started := b }

/-- The environment. -/
def State.setEnv (s : State) (e : Env) : State := { s with env := e }

/-- The framebuffer of the environment. -/
def State.setFb (s : State) (fb : Framebuffer) : State := { s with env := { s.env with fb := fb } }

/-! ### Registers and memory -/

/-- `V[r]`, of all 16 registers alike: none is hardwired, banked or aliased (10_state R22, R23). -/
def readV (s : State) (r : Reg) : Byte := s.v[r.val]

/-- `MemRead(addr, 1)` (20_memory R63). -/
def memRead (s : State) (a : Nat) : Byte := Memory.read s.config s.mem a

/-- Single-byte `MemWrite`s to ascending addresses (20_memory R64). -/
def storeBytes (s : State) (a : Nat) (bs : List Byte) : State := s.setMem (Memory.writeBytes s.config s.mem a bs)

/-- `FetchWord(pc)` (49_cycle_controller R251). -/
def fetchOpcode (s : State) : Opcode := Memory.fetchWord s.config s.mem s.pc

/-! ### The program counter (10_state R26 to R28) -/

/-- The fetch step's advance, and a skip's: one instruction width, modulo 2^16. -/
def advancePc (s : State) : State := s.setPc (s.pc + 2#16)

/-- LD_VX_K's step back to the instruction's own address. -/
def rewindPc (s : State) : State := s.setPc (s.pc - 2#16)

/-- "advances program counter by one extra instruction width when condition holds" (40_control_transfer R124). -/
def skipIf (c : Bool) (s : State) : State := if c then advancePc s else s

/-! ### Faults (60_exceptions R283) -/

/-- Fault entry, in the execute or decode step, where `pc` is already `a + 2`: records the kind, the opcode and the
address `a` the instruction was fetched from, ends the run, and changes nothing else. There is no return from it
(R291). -/
def raiseFault (k : FaultKind) (op : Opcode) (s : State) : State :=
  (s.setFaultRegs k op (s.pc - 2#16)).setRunState .faulted

/-! ### The call stack (10_state R30, R31) -/

/-- `stack[sp] <- w ; sp <- sp + 1`, on a stack that is not full. -/
def pushReturn (s : State) (w : Word16) (h : s.sp.val < 16) : State :=
  (s.setStackEntry ⟨s.sp.val, h⟩ w).setSp ⟨s.sp.val + 1, by omega⟩

/-- `sp <- sp - 1 ; pc <- stack[sp]`, on a stack that is not empty. -/
def popReturn (s : State) (h : 0 < s.sp.val) : State :=
  (s.setSp ⟨s.sp.val - 1, by omega⟩).setPc (s.stack[s.sp.val - 1]'(by omega))

/-! ### The timer check (49_cycle_controller R254 to R257) -/

/-- At least one period elapsed: `Now() - last_timer_tick >= TIMER_PERIOD`, written as a sum. -/
def periodElapsed (s : State) : Bool := decide (s.lastTimerTick + s.config.timerPeriod ≤ s.env.now)

/-- One decrement, saturating at zero. -/
def decrementTimer (t : Byte) : Byte := if t = 0#8 then 0#8 else t - 1#8

/-- `TimerCheck()`: at most one decrement of each timer, and `last_timer_tick` takes the current time. -/
def timerCheck (s : State) : State :=
  if periodElapsed s then
    ((s.setDt (decrementTimer s.dt)).setSt (decrementTimer s.st)).setLastTimerTick s.env.now
  else s

/-- The end of a tick whose instruction left the core running: the timer check (R250), then the environment's answers
for the next tick. A tick that faulted has neither. Log 1. -/
def endTick (s : State) : State :=
  if s.runState = .running then ((timerCheck s).setStarted true).setEnv (s.env.redraw s.config) else s

/-! ### The host's moves (70_reset_and_hazards) -/

/-- Reset asserted in any state: every element of the core takes its reset value, the collaborator is not touched
(R310, R317). -/
def assertReset (s : State) : State := State.resetWith s.config s.env

/-- `load_image(bytes)`: the bytes verbatim from 0x200 on, nothing else; at most 3584 of them, and only between reset
and the first tick (R314). Log 6. -/
def loadImage (bytes : List Byte) (s : State) : Host.Outcome State Fault Refusal :=
  if 3584 < bytes.length then .refused .imageTooLong
  else if s.started = true ∨ s.runState ≠ .running then .refused .loadAfterFirstTick
  else .next (storeBytes s Config.loadOffset.toNat bytes)

/-- Where the next fetch can read a whole opcode: `pc` itself, or the load offset when `pc` lies above 4094. -/
def fetchablePc (s : State) : Word16 := if s.pc.toNat + 1 ≤ 4095 then s.pc else Config.loadOffset

/-- The state whose very next tick fetches and runs the instruction of the table word `w`: it stands at `pc`, high byte
first, the core runs, and the quit signal is not asserted (R250). It stands for the host's load. Log 6. -/
def placeFetchWord (s : State) (nbits w : Nat) : State :=
  (((storeBytes (s.setPc (fetchablePc s)) (fetchablePc s).toNat (opcodeBytes (tableWord nbits w))).setRunState
    .running).setEnv { s.env with quit := false })

/-! ### The outputs (47_interfaces R232, R233; 10_state R38) -/

/-- The code of a fault kind on the 3-bit output `fault_kind`. -/
def FaultKind.code : FaultKind → BitVec 3
  | .noFault => 0
  | .invalidInstruction => 1
  | .stackOverflow => 2
  | .stackUnderflow => 3
  | .memoryOutOfRange => 4
  | .keyIndexOutOfRange => 5

/-- The output `faulted`. -/
def faultedOutput (s : State) : Bool := decide (s.runState = .faulted)

/-- The output `stopped`. -/
def stoppedOutput (s : State) : Bool := decide (s.runState = .stopped)

/-- The output `audio_en = 1 iff st != 0`. -/
def audioEnable (s : State) : Bool := decide (s.st ≠ 0#8)

end Sys2Proof.Machine
end

