-- ==== Sys2Proof/Machine/Operands.lean ====
section
/-! DEFINITION. The operand forms: zero extension of immediates (30_encoding R93), the effective address `I + k` and
its range check (20_memory R65, 43_memory_ops R183), the font address, the decimal digits, the register blocks, the
sprite rows. -/

namespace Sys2Proof.Machine

/-- `zext_16(NNN)`. -/
def zextAddr (nnn : Addr12) : Word16 := nnn.setWidth 16

/-- `zext_16(V[X])`. -/
def zextByte (b : Byte) : Word16 := b.setWidth 16

/-- `zext_8(k)` of a key number. -/
def zextKey (k : Reg) : Byte := BitVec.ofNat 8 k.val

/-- `ea = I + k`, a natural number without wrap-around (20_memory R65). -/
def effectiveAddress (s : State) (k : Nat) : Nat := s.idx.toNat + k

/-- The footprint of `len` bytes from `I` on ends at or below address 4095; an empty one makes no check
(20_memory R65). -/
def footprintInRange (s : State) (len : Nat) : Bool :=
  decide (len = 0) || decide (effectiveAddress s (len - 1) ≤ 4095)

/-- The range check comes before any effect: MemoryOutOfRange when the footprint leaves memory, else the effect. -/
def withFootprint (i : Instr) (len : Nat) (s : State) (effect : State) : Host.Outcome State Fault Refusal :=
  if footprintInRange s len then .next effect else .next (raiseFault .memoryOutOfRange (encode i) s)

/-- `FONT_BASE + GLYPH_SIZE * d` for `d` the low nibble of the register's value (41_immediate_index_random R144). -/
def glyphAddress (b : Byte) : Word16 := BitVec.ofNat 16 (Config.fontBase + Config.glyphSize * (b.toNat % 16))

/-- Hundreds, tens and units of a byte, each a binary byte 0 to 9 (43_memory_ops R180). -/
def decimalDigits (b : Byte) : List Byte :=
  [BitVec.ofNat 8 (b.toNat / 100), BitVec.ofNat 8 (b.toNat / 10 % 10), BitVec.ofNat 8 (b.toNat % 10)]

/-- `V[0]` to `V[X]`, in ascending order (43_memory_ops R181). -/
def registerBlock (s : State) (x : Reg) : List Byte := s.v.toList.take (x.val + 1)

/-- The register file with `V[k] <- MemRead(I + k, 1)` for `k = 0 .. X` (43_memory_ops R182). -/
def loadedRegs (s : State) (x : Reg) : Vector Byte 16 :=
  Vector.ofFn fun k : Reg => if k ≤ x then memRead s (effectiveAddress s k.val) else readV s k

/-- The `n` sprite rows, one byte each, from `I` on (44_display_keypad R191). -/
def spriteRows (s : State) (n : Nat) : List Byte := Memory.readBytes s.config s.mem (effectiveAddress s 0) n

/-- The columns of the 1 bits of a row byte, left to right: bit 7 is column 0 (44_display_keypad R191). -/
def litColumns (b : Byte) : List Nat := (List.range 8).filter fun col => b.getLsbD (7 - col)

/-- The arguments of the `DispSetPixel` calls of one draw on the machine `c`, in order: rows top to bottom, bits left to
right, one call per 1 bit, each coordinate a sum of natural numbers taken modulo the display's size (44_display_keypad
R191). -/
def spriteCalls (c : Config) (x0 y0 : Nat) : Nat → List Byte → List (Nat × Nat)
  | _, [] => []
  | row, b :: bs =>
    (litColumns b).map (fun col => ((x0 + col) % c.displayWidth, (y0 + row) % c.displayHeight)) ++
      spriteCalls c x0 y0 (row + 1) bs

/-- The calls of one draw made one after the other: the framebuffer after them, and whether any pixel was turned off. -/
def drawCalls (fb : Framebuffer) (collision : Bool) : List (Nat × Nat) → Framebuffer × Bool
  | [] => (fb, collision)
  | (px, py) :: calls => drawCalls (dispSetPixel fb px py).1 (collision || (dispSetPixel fb px py).2) calls

end Sys2Proof.Machine
end

