-- ==== Sys2Proof/Machine/Flags.lean ====
section
/-! DEFINITION. The arithmetic of the 8-bit ALU (42_alu R160, R170) and the flag written to VF (10_state R25). -/

namespace Sys2Proof.Machine

/-- A flag as the byte VF receives: 0x01 or 0x00 (10_state R25). -/
def flagByte (f : Bool) : Byte := if f then 0x01#8 else 0x00#8

/-- `(a + b) mod 256`. -/
def sumByte (a b : Byte) : Byte := BitVec.ofNat 8 (a.toNat + b.toNat)

/-- The carry out of an 8-bit addition: `a + b > 255`. -/
def carryOut (a b : Byte) : Bool := decide (255 < a.toNat + b.toNat)

/-- `(m - s) mod 256`, `m` the minuend. -/
def differenceByte (m s : Byte) : Byte := BitVec.ofInt 8 ((m.toNat : Int) - (s.toNat : Int))

/-- No borrow: minuend ≥ subtrahend. -/
def noBorrow (m s : Byte) : Bool := decide (s.toNat ≤ m.toNat)

/-- `a >> 1`, logical. -/
def shiftedRight (a : Byte) : Byte := a >>> 1

/-- The bit a right shift pushes out. -/
def outRight (a : Byte) : Bool := a.getLsbD 0

/-- `(a << 1) mod 256`. -/
def shiftedLeft (a : Byte) : Byte := a <<< 1

/-- The bit a left shift pushes out. -/
def outLeft (a : Byte) : Bool := a.getLsbD 7

/-- "the result is written to `VX`; the flag is written to `VF` last" (10_state R25): with X = F the flag stays. -/
def writeResultAndFlag (s : State) (x : Reg) (result : Byte) (flag : Bool) : State :=
  (s.setV x result).setV regVF (flagByte flag)

end Sys2Proof.Machine
end

