-- ==== Sys2Proof/Machine/Alu.lean ====
section
/-! DEFINITION. The register-register instructions of group 0x8 (42_alu). -/

namespace Sys2Proof.Machine

/-- LD_REG (R161). -/
def execLdReg (x y : Reg) (s : State) : Host.Outcome State Fault Refusal := .next (s.setV x (readV s y))

/-- OR (R162). -/
def execOr (x y : Reg) (s : State) : Host.Outcome State Fault Refusal := .next (s.setV x (readV s x ||| readV s y))

/-- AND (R163). -/
def execAnd (x y : Reg) (s : State) : Host.Outcome State Fault Refusal := .next (s.setV x (readV s x &&& readV s y))

/-- XOR (R164). -/
def execXor (x y : Reg) (s : State) : Host.Outcome State Fault Refusal := .next (s.setV x (readV s x ^^^ readV s y))

/-- ADD_REG (R165). -/
def execAddReg (x y : Reg) (s : State) : Host.Outcome State Fault Refusal :=
  .next (writeResultAndFlag s x (sumByte (readV s x) (readV s y)) (carryOut (readV s x) (readV s y)))

/-- SUB, `VX - VY` (R166). -/
def execSub (x y : Reg) (s : State) : Host.Outcome State Fault Refusal :=
  .next (writeResultAndFlag s x (differenceByte (readV s x) (readV s y)) (noBorrow (readV s x) (readV s y)))

/-- SHR (R167): shifts `VX` in place; `Y` is ignored (30_encoding R98). -/
def execShr (x _y : Reg) (s : State) : Host.Outcome State Fault Refusal :=
  .next (writeResultAndFlag s x (shiftedRight (readV s x)) (outRight (readV s x)))

/-- SUBN, `VY - VX` (R168). -/
def execSubn (x y : Reg) (s : State) : Host.Outcome State Fault Refusal :=
  .next (writeResultAndFlag s x (differenceByte (readV s y) (readV s x)) (noBorrow (readV s y) (readV s x)))

/-- SHL (R169): shifts `VX` in place; `Y` is ignored. -/
def execShl (x _y : Reg) (s : State) : Host.Outcome State Fault Refusal :=
  .next (writeResultAndFlag s x (shiftedLeft (readV s x)) (outLeft (readV s x)))

end Sys2Proof.Machine
end

