-- ==== Sys2Proof/Machine/Control.lean ====
section
/-! DEFINITION. The control transfer instructions (40_control_transfer). Each is an execute step: `pc` is already
`a + 2` (R120). -/

namespace Sys2Proof.Machine

/-- JP (R121). -/
def execJp (nnn : Addr12) (s : State) : Host.Outcome State Fault Refusal := .next (s.setPc (zextAddr nnn))

/-- CALL (R122): StackOverflow on a full stack, before any effect. -/
def execCall (nnn : Addr12) (s : State) : Host.Outcome State Fault Refusal :=
  if h : s.sp.val < 16 then .next ((pushReturn s s.pc h).setPc (zextAddr nnn))
  else .next (raiseFault .stackOverflow (encode (.call nnn)) s)

/-- RET (R123): StackUnderflow on an empty stack, before any effect. -/
def execRet (s : State) : Host.Outcome State Fault Refusal :=
  if h : 0 < s.sp.val then .next (popReturn s h) else .next (raiseFault .stackUnderflow (encode .ret) s)

/-- SE_IMM (R124). -/
def execSeImm (x : Reg) (kk : Byte) (s : State) : Host.Outcome State Fault Refusal :=
  .next (skipIf (decide (readV s x = kk)) s)

/-- SNE_IMM (R125). -/
def execSneImm (x : Reg) (kk : Byte) (s : State) : Host.Outcome State Fault Refusal :=
  .next (skipIf (decide (readV s x ≠ kk)) s)

/-- SE_REG (R126). -/
def execSeReg (x y : Reg) (s : State) : Host.Outcome State Fault Refusal :=
  .next (skipIf (decide (readV s x = readV s y)) s)

/-- SNE_REG (R127). -/
def execSneReg (x y : Reg) (s : State) : Host.Outcome State Fault Refusal :=
  .next (skipIf (decide (readV s x ≠ readV s y)) s)

/-- JP_I (R128): the offset register is `I`, and the sum wraps to 16 bits. -/
def execJpI (nnn : Addr12) (s : State) : Host.Outcome State Fault Refusal := .next (s.setPc (s.idx + zextAddr nnn))

end Sys2Proof.Machine
end

