-- ==== Sys2Proof/Machine/DisplayKeypad.lean ====
section
/-! DEFINITION. The display and keypad instructions (44_display_keypad). -/

namespace Sys2Proof.Machine

/-- CLS (R190). -/
def execCls (s : State) : Host.Outcome State Fault Refusal := .next (s.setFb (dispClear s.env.fb))

/-- The effect of DRW in range: the sprite's calls, then the collision flag in VF, always written (R191). -/
def drawSprite (s : State) (x y : Reg) (n : Nat) : State :=
  let drawn :=
    drawCalls s.env.fb false (spriteCalls s.config (readV s x).toNat (readV s y).toNat 0 (spriteRows s n))
  (s.setFb drawn.1).setV regVF (flagByte drawn.2)

/-- DRW (R191). -/
def execDrw (x y : Reg) (n : Nat) (s : State) : Host.Outcome State Fault Refusal :=
  withFootprint (.drw x y n) n s (drawSprite s x y n)

/-- A key test: the whole value of `VX` is the key number, KeyIndexOutOfRange above 15 and then no query (R192, R193);
else a skip when the key's state is the one asked for. -/
def keyTest (i : Instr) (x : Reg) (pressed : Bool) (s : State) : Host.Outcome State Fault Refusal :=
  if h : (readV s x).toNat < 16 then
    .next (skipIf (decide (keyPressed s.env ⟨(readV s x).toNat, h⟩ = pressed)) s)
  else .next (raiseFault .keyIndexOutOfRange (encode i) s)

/-- SKP (R192). -/
def execSkp (x : Reg) (s : State) : Host.Outcome State Fault Refusal := keyTest (.skp x) x true s

/-- SKNP (R193). -/
def execSknp (x : Reg) (s : State) : Host.Outcome State Fault Refusal := keyTest (.sknp x) x false s

/-- LD_VX_K (R194): with no key pressed, back to the instruction's own address. -/
def execLdVxK (x : Reg) (s : State) : Host.Outcome State Fault Refusal :=
  .next (match getPressedKey s.env with
    | none => rewindPc s
    | some k => s.setV x (zextKey k))

end Sys2Proof.Machine
end

