-- ==== Sys2Proof/Machine/ImmediateIndex.lean ====
section
/-! DEFINITION. The immediate, index-register and random instructions (41_immediate_index_random). -/

namespace Sys2Proof.Machine

/-- LD_IMM (R140). -/
def execLdImm (x : Reg) (kk : Byte) (s : State) : Host.Outcome State Fault Refusal := .next (s.setV x kk)

/-- ADD_IMM (R141): writes the carry to VF. -/
def execAddImm (x : Reg) (kk : Byte) (s : State) : Host.Outcome State Fault Refusal :=
  .next (writeResultAndFlag s x (sumByte (readV s x) kk) (carryOut (readV s x) kk))

/-- LD_I (R142). -/
def execLdI (nnn : Addr12) (s : State) : Host.Outcome State Fault Refusal := .next (s.setIdx (zextAddr nnn))

/-- ADD_I (R143): 16-bit wrap, no flag. -/
def execAddI (x : Reg) (s : State) : Host.Outcome State Fault Refusal :=
  .next (s.setIdx (s.idx + zextByte (readV s x)))

/-- LD_F (R144). -/
def execLdF (x : Reg) (s : State) : Host.Outcome State Fault Refusal := .next (s.setIdx (glyphAddress (readV s x)))

/-- RND (R145): one byte drawn from the environment, AND the mask. -/
def execRnd (x : Reg) (kk : Byte) (s : State) : Host.Outcome State Fault Refusal := .next (s.setV x (s.env.rnd &&& kk))

end Sys2Proof.Machine
end

