-- ==== Sys2Proof/Machine/MemoryOps.lean ====
section
/-! DEFINITION. The memory instructions (43_memory_ops): effective address `I + k`, `I` never changed (R183). -/

namespace Sys2Proof.Machine

/-- LD_B (R180): hundreds, tens, units at `I`, `I + 1`, `I + 2`. -/
def execLdB (x : Reg) (s : State) : Host.Outcome State Fault Refusal :=
  withFootprint (.ldB x) 3 s (storeBytes s (effectiveAddress s 0) (decimalDigits (readV s x)))

/-- ST_REGS (R181). -/
def execStRegs (x : Reg) (s : State) : Host.Outcome State Fault Refusal :=
  withFootprint (.stRegs x) (x.val + 1) s (storeBytes s (effectiveAddress s 0) (registerBlock s x))

/-- LD_REGS (R182). -/
def execLdRegs (x : Reg) (s : State) : Host.Outcome State Fault Refusal :=
  withFootprint (.ldRegs x) (x.val + 1) s (s.setRegs (loadedRegs s x))

end Sys2Proof.Machine
end

