-- ==== Sys2Proof/Machine/Timers.lean ====
section
/-! DEFINITION. The timer access instructions (45_timers). The decrement is the timer check of the tick. -/

namespace Sys2Proof.Machine

/-- LD_VX_DT (R210). -/
def execLdVxDt (x : Reg) (s : State) : Host.Outcome State Fault Refusal := .next (s.setV x s.dt)

/-- LD_DT_VX (R211). -/
def execLdDtVx (x : Reg) (s : State) : Host.Outcome State Fault Refusal := .next (s.setDt (readV s x))

/-- LD_ST_VX (R212). -/
def execLdStVx (x : Reg) (s : State) : Host.Outcome State Fault Refusal := .next (s.setSt (readV s x))

end Sys2Proof.Machine
end

