-- ==== Sys2Proof/Machine/Tick.lean ====
section
/-! DEFINITION. The controller tick (49_cycle_controller R250), over the execute step it is given. -/

namespace Sys2Proof.Machine

/-- What follows the execute step: the end of the tick. -/
def afterExecute : Host.Outcome State Fault Refusal → Host.Outcome State Fault Refusal
  | .next s => .next (endTick s)
  | .fault r => .fault r
  | .refused r => .refused r

/-- Fetch (advance of `pc` included, also of an invalid opcode), decode, execute, end of the tick (R251 to R254). -/
def runInstruction (execute : Instr → State → Host.Outcome State Fault Refusal) (s : State) :
    Host.Outcome State Fault Refusal :=
  match decode (fetchOpcode s) with
  | .error (.invalidInstruction op) => .next (raiseFault .invalidInstruction op (advancePc s))
  | .ok i => afterExecute (execute i (advancePc s))

/-- `Tick()`: nothing when the core is not running (R261), the quit test first, then the instruction. -/
def tickWith (execute : Instr → State → Host.Outcome State Fault Refusal) (s : State) :
    Host.Outcome State Fault Refusal :=
  match s.runState with
  | .faulted => .next s
  | .stopped => .next s
  | .running => if s.env.quit then .next (s.setRunState .stopped) else runInstruction execute s

end Sys2Proof.Machine
end

