-- ==== Sys2Proof/Machine/Step.lean ====
section
/-! DEFINITION. One step of the machine: one controller tick (00_scope R12; 49_cycle_controller R250, R262). -/

namespace Sys2Proof.Machine

/-- One tick. -/
def step (s : State) : Host.Outcome State Fault Refusal := tickWith exec s

/-- The state whose very next step fetches and runs the instruction of the table word `w`. -/
def State.withFetchWord (s : State) (nbits w : Nat) : State := placeFetchWord s nbits w

end Sys2Proof.Machine
end

