-- ==== Sys2Proof/Safety.lean ====
section
/-! DEFINITION. What counts as a safe run, the invariant of the machine, and the words the claims use to say what an
instruction leaves alone. -/

namespace Sys2Proof.Machine

/-- The run has not gone wrong: no fault is recorded ("a premise of every claim about a completed run",
60_exceptions R283). -/
abbrev NoFault (s : State) : Prop := s.runState ≠ .faulted ∧ s.faultKind = .noFault

/-- What holds of the environment of the machine `c`: the picture lies in its grid, in canonical form (47_interfaces
R224), and the time is one of TIME_WIDTH bits (R230). -/
abbrev EnvInv (c : Config) (e : Env) : Prop := Framebuffer.wf c e.fb = true ∧ e.now < 2 ^ c.timeWidth

/-- The invariant every step keeps: parameters the spec allows (00_scope R5), memory in canonical form within its 4096
addresses (10_state R42 (b)), a fault recorded exactly when the core is faulted (R42 (e)), an environment of this
machine, and time not behind the last timer decrement (47_interfaces R230). -/
abbrev Inv (s : State) : Prop :=
  s.config.wf = true ∧ Memory.wf s.config s.mem = true ∧ (s.faultKind = .noFault ↔ s.runState ≠ .faulted) ∧
    EnvInv s.config s.env ∧ s.lastTimerTick ≤ s.env.now

/-- The core runs and no quit is asserted, so the next tick fetches an instruction (49_cycle_controller R250). -/
abbrev Ready (s : State) : Prop := s.runState = .running ∧ s.env.quit = false

/-! ### Frames -/

/-- Every general register outside `d` holds what it held. -/
@[simp] abbrev KeepsRegsBut (d : Reg → Prop) (s t : State) : Prop := ∀ r : Reg, ¬ d r → readV t r = readV s r

/-- Every general register holds what it held. -/
@[simp] abbrev KeepsRegs (s t : State) : Prop := ∀ r : Reg, readV t r = readV s r

/-- Every byte of memory reads as before. -/
@[simp] abbrev KeepsMemory (s t : State) : Prop := ∀ a : Nat, memRead t a = memRead s a

/-- The call stack and its pointer. -/
@[simp] abbrev KeepsCallStack (s t : State) : Prop := t.sp = s.sp ∧ t.stack = s.stack

/-- Both timers and the time of the last decrement. -/
@[simp] abbrev KeepsTimers (s t : State) : Prop := t.dt = s.dt ∧ t.st = s.st ∧ t.lastTimerTick = s.lastTimerTick

/-- The run state and the three fault registers. -/
@[simp] abbrev KeepsRunAndFault (s t : State) : Prop :=
  t.runState = s.runState ∧ t.faultKind = s.faultKind ∧ t.faultOpcode = s.faultOpcode ∧ t.faultAddr = s.faultAddr

/-- Everything of the environment but the framebuffer. -/
@[simp] abbrev KeepsInputs (s t : State) : Prop :=
  t.env.quit = s.env.quit ∧ t.env.now = s.env.now ∧ t.env.rnd = s.env.rnd ∧ t.env.keys = s.env.keys ∧
    t.env.keyPick = s.env.keyPick ∧ t.env.draws = s.env.draws

/-- Every pixel of the framebuffer. -/
@[simp] abbrev KeepsDisplay (s t : State) : Prop := ∀ x y : Nat, pixel t.env.fb x y = pixel s.env.fb x y

/-- What no instruction's own effect reaches: run state and fault registers, inputs, the model's bit, the
configuration. -/
@[simp] abbrev KeepsControl (s t : State) : Prop := KeepsRunAndFault s t ∧ KeepsInputs s t ∧ t.started = s.started ∧
  t.config = s.config

/-- The fault entry of 60_exceptions R283 from the execute step in `s`, and nothing else changed: `pc` keeps the advance
of the fetch. -/
@[simp] abbrev IsFaultEntry (k : FaultKind) (op : Opcode) (s t : State) : Prop :=
  t.runState = .faulted ∧ t.faultKind = k ∧ t.faultOpcode = op ∧ t.faultAddr = s.pc - 2#16 ∧ t.pc = s.pc ∧
    KeepsRegs s t ∧ t.idx = s.idx ∧ KeepsCallStack s t ∧ KeepsTimers s t ∧ KeepsMemory s t ∧ KeepsDisplay s t ∧
    KeepsInputs s t ∧ t.started = s.started ∧ t.config = s.config

/-- Everything but the general registers. -/
@[simp] abbrev KeepsAllButRegs (s t : State) : Prop :=
  t.pc = s.pc ∧ t.idx = s.idx ∧ KeepsCallStack s t ∧ KeepsTimers s t ∧ KeepsMemory s t ∧ KeepsDisplay s t ∧
    KeepsControl s t

/-- Everything but the program counter. -/
@[simp] abbrev KeepsAllButPc (s t : State) : Prop :=
  KeepsRegs s t ∧ t.idx = s.idx ∧ KeepsCallStack s t ∧ KeepsTimers s t ∧ KeepsMemory s t ∧ KeepsDisplay s t ∧
    KeepsControl s t

/-- Everything but the index register. -/
@[simp] abbrev KeepsAllButIdx (s t : State) : Prop :=
  KeepsRegs s t ∧ t.pc = s.pc ∧ KeepsCallStack s t ∧ KeepsTimers s t ∧ KeepsMemory s t ∧ KeepsDisplay s t ∧
    KeepsControl s t

/-- Everything but memory. -/
@[simp] abbrev KeepsAllButMemory (s t : State) : Prop :=
  KeepsRegs s t ∧ t.pc = s.pc ∧ t.idx = s.idx ∧ KeepsCallStack s t ∧ KeepsTimers s t ∧ KeepsDisplay s t ∧
    KeepsControl s t

/-- The outcome of a flag-defining instruction with destination `x` (10_state R25): `VF` holds the flag as 0x01 or
0x00, whatever `x` is; the result is in `VX` unless `x` is F; nothing else changed. -/
@[simp] abbrev ResultAndFlag (x : Reg) (result : Nat) (flag : Prop) (s t : State) : Prop :=
  (flag → readV t regVF = 0x01#8) ∧ (¬ flag → readV t regVF = 0x00#8) ∧
    (x ≠ regVF → (readV t x).toNat = result) ∧ KeepsRegsBut (fun r => r = x ∨ r = regVF) s t ∧ KeepsAllButRegs s t

/-- The outcome of an instruction with the plain destination `x` and no flag: `VX` holds `b`, nothing else changed. -/
@[simp] abbrev PlainResult (x : Reg) (b : Byte) (s t : State) : Prop :=
  readV t x = b ∧ KeepsRegsBut (fun r => r = x) s t ∧ KeepsAllButRegs s t

/-! ### What the rules of the whole machine speak of -/

/-- The operands of an instruction are the fields of the opcode that 30_encoding R92 names. -/
def OperandsAreFields (op : Opcode) : Instr → Prop
  | .cls | .ret => True
  | .jp nnn | .call nnn | .ldI nnn | .jpI nnn => nnn.toNat = op.toNat % 4096
  | .seImm x kk | .sneImm x kk | .ldImm x kk | .addImm x kk | .rnd x kk =>
    x.val = op.toNat / 256 % 16 ∧ kk.toNat = op.toNat % 256
  | .seReg x y | .sneReg x y | .ldReg x y | .orReg x y | .andReg x y | .xorReg x y | .addReg x y | .sub x y
  | .shr x y | .subn x y | .shl x y => x.val = op.toNat / 256 % 16 ∧ y.val = op.toNat / 16 % 16
  | .drw x y n => x.val = op.toNat / 256 % 16 ∧ y.val = op.toNat / 16 % 16 ∧ n = op.toNat % 16
  | .skp x | .sknp x | .ldVxDt x | .ldVxK x | .ldDtVx x | .ldStVx x | .addI x | .ldF x | .ldB x | .stRegs x
  | .ldRegs x => x.val = op.toNat / 256 % 16

/-- The registers an instruction may write, as destination or as flag (10_state R22). -/
def MayWriteReg : Instr → Reg → Prop
  | .ldImm x _, r | .ldReg x _, r | .orReg x _, r | .andReg x _, r | .xorReg x _, r | .rnd x _, r | .ldVxDt x, r
  | .ldVxK x, r => r = x
  | .addImm x _, r | .addReg x _, r | .sub x _, r | .subn x _, r | .shr x _, r | .shl x _, r => r = x ∨ r = regVF
  | .ldRegs x, r => r ≤ x
  | .drw _ _ _, r => r = regVF
  | .cls, _ | .ret, _ | .jp _, _ | .call _, _ | .seImm _ _, _ | .sneImm _ _, _ | .seReg _ _, _ | .sneReg _ _, _
  | .ldI _, _ | .jpI _, _ | .skp _, _ | .sknp _, _ | .ldDtVx _, _ | .ldStVx _, _ | .addI _, _ | .ldF _, _
  | .ldB _, _ | .stRegs _, _ => False

/-- The tick about to run fetches an opcode that decodes to `i`. -/
abbrev Fetches (s : State) (i : Instr) : Prop := decode (fetchOpcode s) = .ok i

/-- The cause of each fault in the tick about to run (60_exceptions R280). -/
def FaultCause (s : State) : FaultKind → Prop
  | .noFault => False
  | .invalidInstruction => ∃ e, decode (fetchOpcode s) = .error e
  | .stackOverflow => ∃ nnn, Fetches s (.call nnn) ∧ s.sp.val = 16
  | .stackUnderflow => Fetches s .ret ∧ s.sp.val = 0
  | .memoryOutOfRange =>
    (∃ x y n, Fetches s (.drw x y n) ∧ 1 ≤ n ∧ s.idx.toNat + n - 1 > 4095) ∨
      (∃ x, Fetches s (.ldB x) ∧ s.idx.toNat + 2 > 4095) ∨
      (∃ x, (Fetches s (.stRegs x) ∨ Fetches s (.ldRegs x)) ∧ s.idx.toNat + x.val > 4095)
  | .keyIndexOutOfRange => ∃ x, (Fetches s (.skp x) ∨ Fetches s (.sknp x)) ∧ (readV s x).toNat > 15

/-- Bit `7 - col` of row `row` of a sprite at `I`, drawn at `(x0, y0)`, is 1 and lies over the pixel `(px, py)`, each
coordinate taken modulo the display's size (44_display_keypad R191). -/
abbrev LitBitOver (s : State) (x0 y0 px py row col : Nat) : Prop :=
  (memRead s (s.idx.toNat + row)).getLsbD (7 - col) = true ∧
    px = (x0 + col) % s.config.displayWidth ∧ py = (y0 + row) % s.config.displayHeight

/-- The pixel `(px, py)` lies under a 1 bit of the sprite of `n` rows. -/
def UnderLitBit (s : State) (x0 y0 n px py : Nat) : Prop :=
  ∃ row col : Nat, row < n ∧ col < 8 ∧ LitBitOver s x0 y0 px py row col

/-- How many 1 bits of the sprite of `n` rows lie over the pixel: at most one on a display of at least 8 by `n` pixels,
more where the sprite wraps onto itself. -/
def litBitsOver (s : State) (x0 y0 n px py : Nat) : Nat :=
  ((List.range n).map fun row => ((List.range 8).filter fun col => decide (LitBitOver s x0 y0 px py row col)).length).sum

end Sys2Proof.Machine
end

