-- ==== Sys2Proof/Certificates/Slice0/Obligations.lean ====
section
/-! DEFINITION. The statements about the model, for the provers. Each docstring names the rules of spec/ it formalises.
Statements about one instruction speak of its execute step, which starts with `pc` at `a + 2` (10_state R26). -/

open Sys2Proof Sys2Proof.Machine

/-! ### The encoding -/

/-- Decode after encode is the identity on well-formed instructions, with every operand at every value (R92, R96). -/
def Obligations.DecodeAfterEncode : Prop := ∀ i : Instr, i.WellFormed → decode (encode i) = .ok i

/-- Encode after decode is the identity on valid opcodes, and what is decoded is well formed: one opcode, one meaning,
no bit dropped (R94, R96). -/
def Obligations.EncodeAfterDecode : Prop :=
  ∀ (op : Opcode) (i : Instr), decode op = .ok i → encode i = op ∧ i.WellFormed

/-- An opcode selects the row whose `(op & mask) = match`; if no row matches, it is invalid (30_encoding R96; the digits
are the spec's decision D9). -/
def Obligations.OpcodeTableSelectsInstruction : Prop :=
  opcodeTable.length = 34 ∧
    ∀ op : Opcode,
      (∀ r ∈ opcodeTable, r.Matches op → ∃ i, decode op = .ok i ∧ i.mnemonic = r.mnemonic) ∧
        ((∀ r ∈ opcodeTable, ¬ r.Matches op) → decode op = .error (.invalidInstruction op))

/-- No opcode matches two rows of the table (30_encoding R103; the counts there are not restated). -/
def Obligations.OpcodeTableRowsDisjoint : Prop :=
  ∀ op : Opcode, ∀ r ∈ opcodeTable, ∀ q ∈ opcodeTable, r.Matches op → q.Matches op → r = q

/-- The invalid opcodes are exactly the six classes of 30_encoding R97 (its counts are not restated; the strict low
nibble is the spec's decision D10). -/
def Obligations.InvalidOpcodesAreExactly : Prop :=
  ∀ op : Opcode, decode op = .error (.invalidInstruction op) ↔
    (op.toNat / 4096 = 0 ∧ op.toNat ≠ 0x0E0 ∧ op.toNat ≠ 0x0EE) ∨
      ((op.toNat / 4096 = 5 ∨ op.toNat / 4096 = 9) ∧ op.toNat % 16 ≠ 0) ∨
      (op.toNat / 4096 = 8 ∧ op.toNat % 16 ∈ [0x8, 0x9, 0xA, 0xB, 0xC, 0xD, 0xF]) ∨
      (op.toNat / 4096 = 0xE ∧ op.toNat % 256 ∉ [0x9E, 0xA1]) ∨
      (op.toNat / 4096 = 0xF ∧
        op.toNat % 256 ∉ [0x07, 0x0A, 0x15, 0x18, 0x1E, 0x29, 0x33, 0x55, 0x65])

/-- 30_encoding R92: the operands of whatever is decoded are the opcode's fields. -/
def Obligations.OperandsAreOpcodeFields : Prop :=
  ∀ (op : Opcode) (i : Instr), decode op = .ok i → OperandsAreFields op i

/-- Words written out from the encodings of 30_encoding R96 decode to the instructions they stand for, and two reserved
words are invalid (R97). -/
def Obligations.SampleWordsDecode : Prop :=
  decode 0x00E0#16 = .ok .cls ∧ decode 0x2FFF#16 = .ok (.call 0xFFF#12) ∧
    decode 0x7F01#16 = .ok (.addImm 15 0x01#8) ∧ decode 0x8AB7#16 = .ok (.subn 10 11) ∧
    decode 0xD12F#16 = .ok (.drw 1 2 15) ∧ decode 0xE0A1#16 = .ok (.sknp 0) ∧
    decode 0xFE65#16 = .ok (.ldRegs 14) ∧ decode 0xF015#16 = .ok (.ldDtVx 0) ∧
    decode 0x0000#16 = .error (.invalidInstruction 0x0000#16) ∧
    decode 0x8AB8#16 = .error (.invalidInstruction 0x8AB8#16)

/-! ### The tick -/

/-- A tick of a core that is not running changes nothing at all (49_cycle_controller R261, the spec's decisions D8 and
D30). -/
def Obligations.HaltedTickDoesNothing : Prop := ∀ s : State, s.runState ≠ .running → step s = .next s

/-- The quit flag is sampled before the fetch; when it is set the core stops and the tick does nothing else
(47_interfaces R231, the spec's decision D24). -/
def Obligations.QuitStopsTheCore : Prop :=
  ∀ s : State, s.runState = .running → s.env.quit = true →
    ∃ t, step s = .next t ∧ t = { s with runState := RunState.stopped }

/-- When the core runs, quit is not asserted and the two bytes at `pc` decode to `i`, the tick is: advance `pc` by 2,
execute `i` there, end the tick (49_cycle_controller R250 to R253, the spec's decisions D2 and D3). -/
def Obligations.StepRunsDecodedInstruction : Prop :=
  ∀ (s : State) (i : Instr), Ready s → Fetches s i →
    (advancePc s).pc = s.pc + 2#16 ∧ KeepsAllButPc s (advancePc s) ∧
      step s = (match exec i (advancePc s) with
        | .next t => .next (endTick t)
        | .fault r => .fault r
        | .refused r => .refused r)

/-- The fetch is big-endian, and the whole opcode is 0x0000 when either byte lies outside memory (20_memory R66, the
spec's decision D5). -/
def Obligations.FetchWordReadsBigEndian : Prop :=
  ∀ s : State,
    (s.pc.toNat + 1 ≤ 4095 →
      (fetchOpcode s).toNat = 256 * (memRead s s.pc.toNat).toNat + (memRead s (s.pc.toNat + 1)).toNat) ∧
    (4095 < s.pc.toNat + 1 → fetchOpcode s = 0x0000#16)

/-- An opcode the decoder does not classify takes the InvalidInstruction fault with the raw opcode; a fetch that reaches
beyond address 4095 is this fault with opcode 0x0000 (60_exceptions R281; the form of fault entry is decision D8). -/
def Obligations.InvalidOpcodeFaults : Prop :=
  ∀ s : State, Ready s →
    (∀ op, decode (fetchOpcode s) = .error (.invalidInstruction op) →
      ∃ t, step s = .next t ∧ op = fetchOpcode s ∧
        IsFaultEntry .invalidInstruction (fetchOpcode s) (advancePc s) t) ∧
    (4095 < s.pc.toNat + 1 →
      ∃ t, step s = .next t ∧ IsFaultEntry .invalidInstruction 0x0000#16 (advancePc s) t)

/-- Fault entry records kind, opcode and fetch address, and the faulting tick changes nothing else except that `pc`
holds `a + 2` (60_exceptions R283; precise faults are the spec's decisions D8 and D35). -/
def Obligations.FaultsArePrecise : Prop :=
  ∀ s t : State, Ready s → step s = .next t → t.runState = .faulted →
    t.faultKind ≠ .noFault ∧ t.faultAddr = s.pc ∧ t.pc = s.pc + 2#16 ∧
      IsFaultEntry t.faultKind (fetchOpcode s) (advancePc s) t

/-- The five faults, each exactly when its cause is there, and no other fault (60_exceptions R280; the last two are the
spec's decisions D6 and D7). -/
def Obligations.FaultCausesAreExactly : Prop :=
  ∀ s t : State, Ready s → step s = .next t →
    ∀ k : FaultKind, (t.runState = .faulted ∧ t.faultKind = k) ↔ FaultCause s k

/-- 49_cycle_controller R254: the timer check at the end of every tick that did not fault or stop, on the state `u` the
instruction left. The period is the configuration's, which a state carries in the model's form (log 15). -/
def Obligations.TimerCheckEndsTick : Prop :=
  ∀ (s u : State) (i : Instr), Ready s → Fetches s i → exec i (advancePc s) = .next u → u.runState = .running →
    ∃ t, step s = .next t ∧
      ((u.config.timerPeriod : Int) ≤ (u.env.now : Int) - (u.lastTimerTick : Int) →
        t.dt.toNat = u.dt.toNat - 1 ∧ t.st.toNat = u.st.toNat - 1 ∧ t.lastTimerTick = u.env.now) ∧
      (¬ (u.config.timerPeriod : Int) ≤ (u.env.now : Int) - (u.lastTimerTick : Int) →
        KeepsTimers u t) ∧
      KeepsRegs u t ∧ t.pc = u.pc ∧ t.idx = u.idx ∧ KeepsCallStack u t ∧ KeepsMemory u t ∧ KeepsDisplay u t ∧
      KeepsRunAndFault u t ∧ t.config = u.config

/-- A timer changes in a tick only by its write instruction or by one decrement of a nonzero value: it never rises
otherwise and never wraps (10_state R32, R33, R42 (c)). -/
def Obligations.TimersFallUnlessWritten : Prop :=
  ∀ s t : State, step s = .next t →
    (t.dt ≠ s.dt → (Ready s ∧ ∃ x, Fetches s (.ldDtVx x)) ∨ t.dt.toNat + 1 = s.dt.toNat) ∧
    (t.st ≠ s.st → (Ready s ∧ ∃ x, Fetches s (.ldStVx x)) ∨ t.st.toNat + 1 = s.st.toNat)

/-- Every tick has an outcome and it is a next state, whatever the inputs (49_cycle_controller R262). -/
def Obligations.EveryTickAnswersNext : Prop := ∀ s : State, ∃ t, step s = .next t

/-- Only CALL writes the call stack, the entry at `sp` alone, and only CALL and RET move its pointer, by one (10_state
R30, R31). -/
def Obligations.OnlyCallAndRetMoveTheStack : Prop :=
  ∀ s t : State, step s = .next t → t.sp ≠ s.sp ∨ t.stack ≠ s.stack →
    Ready s ∧
      ((∃ nnn, Fetches s (.call nnn) ∧ t.sp.val = s.sp.val + 1 ∧
          ∀ k : Fin 16, k.val ≠ s.sp.val → t.stack[k.val] = s.stack[k.val]) ∨
        (Fetches s .ret ∧ t.sp.val + 1 = s.sp.val ∧ t.stack = s.stack))

/-- The only ticks that change a byte of memory run LD_B or ST_REGS, and the byte lies in their footprint
(20_memory R62). -/
def Obligations.OnlyStoresChangeMemory : Prop :=
  ∀ (s t : State) (a : Nat), step s = .next t → memRead t a ≠ memRead s a →
    Ready s ∧ s.idx.toNat ≤ a ∧ a ≤ 4095 ∧
      ((∃ x, Fetches s (.ldB x) ∧ a ≤ s.idx.toNat + 2) ∨
        (∃ x, Fetches s (.stRegs x) ∧ a ≤ s.idx.toNat + x.val))

/-- A register changes in a tick only when the instruction has it as destination or writes VF as its flag
(10_state R22, R25). -/
def Obligations.OnlyDestinationsChange : Prop :=
  ∀ (s t : State) (r : Reg), step s = .next t → readV t r ≠ readV s r →
    Ready s ∧ ∃ i, Fetches s i ∧ MayWriteReg i r

/-- The index register is written by LD_I, ADD_I and LD_F only (10_state R29). -/
def Obligations.OnlyIndexInstructionsChangeIndex : Prop :=
  ∀ s t : State, step s = .next t → t.idx ≠ s.idx →
    Ready s ∧ ((∃ nnn, Fetches s (.ldI nnn)) ∨ (∃ x, Fetches s (.addI x)) ∨ (∃ x, Fetches s (.ldF x)))

/-- No operation of the core but CLS and DRW changes the framebuffer (47_interfaces R224). -/
def Obligations.OnlyClsAndDrwChangeThePicture : Prop :=
  ∀ (s t : State) (px py : Nat), step s = .next t → pixel t.env.fb px py ≠ pixel s.env.fb px py →
    Ready s ∧ (Fetches s .cls ∨ ∃ x y n, Fetches s (.drw x y n))

/-! ### Invariants, reset, load -/

/-- Every step keeps the invariant: parameters the spec allows, memory's canonical form, a fault recorded exactly when
faulted, the picture inside the grid, time in its width and not behind the last decrement (10_state R42; 47_interfaces
R224, R230). -/
def Obligations.StepKeepsInvariant : Prop := ∀ s t : State, Inv s → step s = .next t → Inv t

/-- The invariant holds after reset, on every machine whose parameters the spec allows, in any environment of it. -/
def Obligations.ResetMeetsInvariant : Prop :=
  Inv State.reset ∧
    (∀ c : Config, c.wf = true → Inv (State.resetWith c (Env.powerOn c))) ∧
    ∀ s : State, s.config.wf = true → EnvInv s.config s.env → Inv (assertReset s)

/-- Reset writes every element of the core with the value of 10_state R41, samples `Now()`, and does not touch the
collaborator (70_reset_and_hazards R310, the spec's decisions D15, D19 and D21). `State.reset` is the same reset at
power-on, with the parameter values of 00_scope R5 (log 15). -/
def Obligations.ResetValues : Prop :=
  (∃ e, State.reset = State.resetWith Config.spec e) ∧
    ∀ s : State,
      assertReset s = State.resetWith s.config s.env ∧
      (∀ r : Reg, readV (assertReset s) r = 0x00#8) ∧ (∀ k : Fin 16, (assertReset s).stack[k.val] = 0x0000#16) ∧
      (∀ a (h : a < 80), memRead (assertReset s) a = s.config.fontData[a]) ∧
      (∀ a, 80 ≤ a → memRead (assertReset s) a = 0x00#8) ∧
      (assertReset s).pc = 0x0200#16 ∧ (assertReset s).idx = 0x0000#16 ∧ (assertReset s).sp.val = 0 ∧
      (assertReset s).dt = 0x00#8 ∧ (assertReset s).st = 0x00#8 ∧ (assertReset s).lastTimerTick = s.env.now ∧
      (assertReset s).runState = .running ∧ (assertReset s).faultKind = .noFault ∧
      (assertReset s).faultOpcode = 0x0000#16 ∧ (assertReset s).faultAddr = 0x0000#16 ∧
      (assertReset s).env.fb = s.env.fb

/-- `load_image` of at most 3584 bytes between reset and the first tick puts byte `j` at 0x200 + j and changes nothing
else, and keeps the invariant (70_reset_and_hazards R314, the spec's decision D23). -/
def Obligations.LoadImageCopiesBytes : Prop :=
  ∀ (s : State) (bytes : List Byte), bytes.length ≤ 3584 → s.started = false → s.runState = .running →
    ∃ t, loadImage bytes s = .next t ∧
      (∀ j (h : j < bytes.length), memRead t (0x200 + j) = bytes[j]) ∧
      (∀ a, a < 0x200 ∨ 0x200 + bytes.length ≤ a → memRead t a = memRead s a) ∧
      KeepsAllButMemory s t ∧ (Inv s → Inv t)

/-- Outside its contract the load is refused by name: the model's choice for a host move the spec does not define
(70_reset_and_hazards R314 (a), (b); log 6). -/
def Obligations.LoadImageRefusedOutsideContract : Prop :=
  ∀ (s : State) (bytes : List Byte),
    (3584 < bytes.length → loadImage bytes s = .refused .imageTooLong) ∧
    (bytes.length ≤ 3584 → s.started = true ∨ s.runState ≠ .running →
      loadImage bytes s = .refused .loadAfterFirstTick)

/-- After reset and a load the first fetch is at 0x200 and reads the image's first two bytes, high byte first
(70_reset_and_hazards R312, R314, R315). -/
def Obligations.FirstFetchIsTheImage : Prop :=
  ∀ (s : State) (b c : Byte) (rest : List Byte), rest.length ≤ 3582 →
    ∃ t, loadImage (b :: c :: rest) (assertReset s) = .next t ∧ t.pc = 0x0200#16 ∧ fetchOpcode t = b ++ c

/-- A block store is seen by the very next fetch from any of its bytes: self-modifying code needs no fence
(20_memory R75). -/
def Obligations.StoreIsSeenByTheNextFetch : Prop :=
  ∀ (s : State) (x : Reg), s.idx.toNat + x.val ≤ 4095 →
    ∃ t, exec (.stRegs x) s = .next t ∧
      ∀ (k : Nat) (h : k + 1 ≤ x.val),
        fetchOpcode (t.setPc (s.idx + BitVec.ofNat 16 k)) =
          readV s ⟨k, by omega⟩ ++ readV s ⟨k + 1, by omega⟩

/-! ### Control transfer -/

/-- 40_control_transfer R121: JP. -/
def Obligations.JumpGoesToItsTarget : Prop :=
  ∀ (nnn : Addr12) (s : State),
    decode (0x1#4 ++ nnn) = .ok (.jp nnn) ∧
    ∃ t, exec (.jp nnn) s = .next t ∧ t.pc.toNat = nnn.toNat ∧ KeepsAllButPc s t

/-- JP_I adds the index register, modulo 2^16 (40_control_transfer R128, the spec's decision D14). -/
def Obligations.JumpWithOffsetAddsIndex : Prop :=
  ∀ (nnn : Addr12) (s : State),
    decode (0xB#4 ++ nnn) = .ok (.jpI nnn) ∧
    ∃ t, exec (.jpI nnn) s = .next t ∧ t.pc.toNat = (s.idx.toNat + nnn.toNat) % 65536 ∧ KeepsAllButPc s t

/-- CALL pushes the advanced `pc` and jumps; with 16 entries it faults with nothing pushed (40_control_transfer R122;
the faulting case is the spec's decision D35). -/
def Obligations.CallPushesAndJumps : Prop :=
  ∀ (nnn : Addr12) (s : State),
    decode (0x2#4 ++ nnn) = .ok (.call nnn) ∧
    (s.sp.val < 16 →
      ∃ t, exec (.call nnn) s = .next t ∧ t.pc.toNat = nnn.toNat ∧ t.sp.val = s.sp.val + 1 ∧
        (∀ k : Fin 16, t.stack[k.val] = if k.val = s.sp.val then s.pc else s.stack[k.val]) ∧
        KeepsRegs s t ∧ t.idx = s.idx ∧ KeepsTimers s t ∧ KeepsMemory s t ∧ KeepsDisplay s t ∧ KeepsControl s t) ∧
    (s.sp.val = 16 →
      ∃ t, exec (.call nnn) s = .next t ∧ IsFaultEntry .stackOverflow (encode (.call nnn)) s t)

/-- RET pops the stack into `pc`; with no entry it faults (40_control_transfer R123; the faulting case is decision
D35). -/
def Obligations.RetPopsIntoPc : Prop :=
  ∀ s : State,
    decode 0x00EE#16 = .ok .ret ∧
    (∀ k : Fin 16, s.sp.val = k.val + 1 →
      ∃ t, exec .ret s = .next t ∧ t.pc = s.stack[k.val] ∧ t.sp.val = k.val ∧ t.stack = s.stack ∧
        KeepsRegs s t ∧ t.idx = s.idx ∧ KeepsTimers s t ∧ KeepsMemory s t ∧ KeepsDisplay s t ∧ KeepsControl s t) ∧
    (s.sp.val = 0 → ∃ t, exec .ret s = .next t ∧ IsFaultEntry .stackUnderflow 0x00EE#16 s t)

/-- A call followed at once by a return restores `pc` and the stack pointer, and leaves every live entry of the stack
as it was (40_control_transfer R122, R123). -/
def Obligations.CallThenRetRestores : Prop :=
  ∀ (nnn : Addr12) (s : State), s.sp.val < 16 →
    ∃ t u, exec (.call nnn) s = .next t ∧ exec .ret (advancePc t) = .next u ∧ u.pc = s.pc ∧ u.sp = s.sp ∧
      ∀ k : Fin 16, k.val < s.sp.val → u.stack[k.val] = s.stack[k.val]

/-- 40_control_transfer R124, R125: the skips on an immediate. -/
def Obligations.SkipOnImmediate : Prop :=
  ∀ (x : Reg) (kk : Byte) (s : State),
    decode (formatI 0x3#4 x kk) = .ok (.seImm x kk) ∧ decode (formatI 0x4#4 x kk) = .ok (.sneImm x kk) ∧
    (∃ t, exec (.seImm x kk) s = .next t ∧
      t.pc.toNat = (if (readV s x).toNat = kk.toNat then (s.pc.toNat + 2) % 65536 else s.pc.toNat) ∧
      KeepsAllButPc s t) ∧
    (∃ t, exec (.sneImm x kk) s = .next t ∧
      t.pc.toNat = (if (readV s x).toNat ≠ kk.toNat then (s.pc.toNat + 2) % 65536 else s.pc.toNat) ∧
      KeepsAllButPc s t)

/-- The skips on two registers; the low nibble of their opcodes must be 0 (40_control_transfer R126, R127; that no other
low nibble decodes is the spec's decision D10, log 11). -/
def Obligations.SkipOnRegisters : Prop :=
  ∀ (x y : Reg) (s : State),
    decode (formatR 0x5#4 x y 0x0#4) = .ok (.seReg x y) ∧ decode (formatR 0x9#4 x y 0x0#4) = .ok (.sneReg x y) ∧
    (∀ n : Nibble, n ≠ 0x0#4 → ∀ i, decode (formatR 0x5#4 x y n) ≠ .ok i ∧ decode (formatR 0x9#4 x y n) ≠ .ok i) ∧
    (∃ t, exec (.seReg x y) s = .next t ∧
      t.pc.toNat = (if (readV s x).toNat = (readV s y).toNat then (s.pc.toNat + 2) % 65536 else s.pc.toNat) ∧
      KeepsAllButPc s t) ∧
    (∃ t, exec (.sneReg x y) s = .next t ∧
      t.pc.toNat = (if (readV s x).toNat ≠ (readV s y).toNat then (s.pc.toNat + 2) % 65536 else s.pc.toNat) ∧
      KeepsAllButPc s t)

/-! ### Registers and arithmetic -/

/-- 41_immediate_index_random R140 and 42_alu R161: load immediate and register copy; no flag. -/
def Obligations.LoadAndCopy : Prop :=
  ∀ (x y : Reg) (kk : Byte) (s : State),
    decode (formatI 0x6#4 x kk) = .ok (.ldImm x kk) ∧ decode (formatR 0x8#4 x y 0x0#4) = .ok (.ldReg x y) ∧
    (∃ t, exec (.ldImm x kk) s = .next t ∧ PlainResult x kk s t) ∧
    (∃ t, exec (.ldReg x y) s = .next t ∧ PlainResult x (readV s y) s t)

/-- 42_alu R162, R163, R164: OR, AND, XOR, bit by bit; no flag. -/
def Obligations.BitwiseOperations : Prop :=
  ∀ (x y : Reg) (s : State),
    decode (formatR 0x8#4 x y 0x1#4) = .ok (.orReg x y) ∧ decode (formatR 0x8#4 x y 0x2#4) = .ok (.andReg x y) ∧
    decode (formatR 0x8#4 x y 0x3#4) = .ok (.xorReg x y) ∧
    (∃ t, exec (.orReg x y) s = .next t ∧ PlainResult x (readV s x ||| readV s y) s t) ∧
    (∃ t, exec (.andReg x y) s = .next t ∧ PlainResult x (readV s x &&& readV s y) s t) ∧
    (∃ t, exec (.xorReg x y) s = .next t ∧ PlainResult x (readV s x ^^^ readV s y) s t)

/-- ADD_IMM wraps and sets VF to the carry, on every execution (41_immediate_index_random R141; with X = F decision
D12). -/
def Obligations.AddImmediateSetsCarry : Prop :=
  ∀ (x : Reg) (kk : Byte) (s : State),
    decode (formatI 0x7#4 x kk) = .ok (.addImm x kk) ∧
    ∃ t, exec (.addImm x kk) s = .next t ∧
      ResultAndFlag x (((readV s x).toNat + kk.toNat) % 256) (255 < (readV s x).toNat + kk.toNat) s t

/-- 42_alu R165: ADD_REG wraps and sets VF to the carry; there is no carry in. -/
def Obligations.AddRegistersSetsCarry : Prop :=
  ∀ (x y : Reg) (s : State),
    decode (formatR 0x8#4 x y 0x4#4) = .ok (.addReg x y) ∧
    ∃ t, exec (.addReg x y) s = .next t ∧
      ResultAndFlag x (((readV s x).toNat + (readV s y).toNat) % 256)
        (255 < (readV s x).toNat + (readV s y).toNat) s t

/-- 42_alu R166, R168: SUB and SUBN, VF set exactly when no borrow occurred (equal operands: set). -/
def Obligations.SubtractSetsNoBorrow : Prop :=
  ∀ (x y : Reg) (s : State),
    decode (formatR 0x8#4 x y 0x5#4) = .ok (.sub x y) ∧ decode (formatR 0x8#4 x y 0x7#4) = .ok (.subn x y) ∧
    (∃ t, exec (.sub x y) s = .next t ∧
      ResultAndFlag x (((readV s x).toNat + 256 - (readV s y).toNat) % 256)
        ((readV s x).toNat ≥ (readV s y).toNat) s t) ∧
    (∃ t, exec (.subn x y) s = .next t ∧
      ResultAndFlag x (((readV s y).toNat + 256 - (readV s x).toNat) % 256)
        ((readV s y).toNat ≥ (readV s x).toNat) s t)

/-- The shifts by one of VX, in place, for every value of the ignored Y; VF gets the bit shifted out (42_alu R167, R169,
the spec's decision D11). -/
def Obligations.ShiftsSetShiftedOutBit : Prop :=
  ∀ (x y : Reg) (s : State),
    decode (formatR 0x8#4 x y 0x6#4) = .ok (.shr x y) ∧ decode (formatR 0x8#4 x y 0xE#4) = .ok (.shl x y) ∧
    (∃ t, exec (.shr x y) s = .next t ∧
      ResultAndFlag x ((readV s x).toNat / 2) ((readV s x).toNat % 2 = 1) s t) ∧
    (∃ t, exec (.shl x y) s = .next t ∧
      ResultAndFlag x ((readV s x).toNat * 2 % 256) (128 ≤ (readV s x).toNat) s t)

/-- RND, whatever byte the environment draws; every bit outside the mask is 0 afterwards (41_immediate_index_random R145,
the spec's decision D18; the byte is a free value, log 1). -/
def Obligations.RandomByteIsMasked : Prop :=
  ∀ (x : Reg) (kk : Byte) (s : State),
    decode (formatI 0xC#4 x kk) = .ok (.rnd x kk) ∧
    ∃ t, exec (.rnd x kk) s = .next t ∧ PlainResult x (s.env.rnd &&& kk) s t ∧ readV t x &&& ~~~kk = 0#8

/-- 41_immediate_index_random R142, R143: load and add to the index register; no flag, no fault. -/
def Obligations.IndexRegisterWrites : Prop :=
  ∀ (x : Reg) (nnn : Addr12) (s : State),
    decode (0xA#4 ++ nnn) = .ok (.ldI nnn) ∧ decode (formatI 0xF#4 x 0x1E#8) = .ok (.addI x) ∧
    (∃ t, exec (.ldI nnn) s = .next t ∧ t.idx.toNat = nnn.toNat ∧ KeepsAllButIdx s t) ∧
    (∃ t, exec (.addI x) s = .next t ∧ t.idx.toNat = (s.idx.toNat + (readV s x).toNat) % 65536 ∧
      KeepsAllButIdx s t)

/-- LD_F points the index register at the glyph of the low nibble: 5 bytes a glyph from address 0 on, in digit order
(41_immediate_index_random R144; the layout is the spec's decision D15). -/
def Obligations.FontGlyphAddress : Prop :=
  ∀ (x : Reg) (s : State),
    decode (formatI 0xF#4 x 0x29#8) = .ok (.ldF x) ∧
    ∃ t, exec (.ldF x) s = .next t ∧ t.idx.toNat = 5 * ((readV s x).toNat % 16) ∧ KeepsAllButIdx s t

/-! ### Memory instructions -/

/-- LD_B stores the three decimal digits at `I`, `I + 1`, `I + 2` and no other byte; it faults before any effect when
`I + 2` lies above 4095 (43_memory_ops R180, the spec's decision D6). -/
def Obligations.DecimalDigitsAreStored : Prop :=
  ∀ (x : Reg) (s : State),
    decode (formatI 0xF#4 x 0x33#8) = .ok (.ldB x) ∧
    (s.idx.toNat + 2 ≤ 4095 →
      ∃ t, exec (.ldB x) s = .next t ∧
        (memRead t (effectiveAddress s 0)).toNat = (readV s x).toNat / 100 ∧
        (memRead t (effectiveAddress s 1)).toNat = (readV s x).toNat / 10 % 10 ∧
        (memRead t (effectiveAddress s 2)).toNat = (readV s x).toNat % 10 ∧
        (∀ a, (∀ k, k < 3 → a ≠ effectiveAddress s k) → memRead t a = memRead s a) ∧ KeepsAllButMemory s t) ∧
    (4095 < s.idx.toNat + 2 →
      ∃ t, exec (.ldB x) s = .next t ∧ IsFaultEntry .memoryOutOfRange (encode (.ldB x)) s t)

/-- ST_REGS stores V0 to VX at ascending addresses from `I` and no other byte, `I` unchanged; it faults with nothing
written when `I + X` lies above 4095 (43_memory_ops R181, the spec's decisions D6 and D13). -/
def Obligations.RegisterBlockIsStored : Prop :=
  ∀ (x : Reg) (s : State),
    decode (formatI 0xF#4 x 0x55#8) = .ok (.stRegs x) ∧
    (s.idx.toNat + x.val ≤ 4095 →
      ∃ t, exec (.stRegs x) s = .next t ∧
        (∀ k : Reg, k ≤ x → memRead t (effectiveAddress s k.val) = readV s k) ∧
        (∀ a, (∀ k : Reg, k ≤ x → a ≠ effectiveAddress s k.val) → memRead t a = memRead s a) ∧
        KeepsAllButMemory s t) ∧
    (4095 < s.idx.toNat + x.val →
      ∃ t, exec (.stRegs x) s = .next t ∧ IsFaultEntry .memoryOutOfRange (encode (.stRegs x)) s t)

/-- LD_REGS loads V0 to VX from ascending addresses from `I`, the registers above VX and `I` unchanged; it faults with
no register written when `I + X` lies above 4095 (43_memory_ops R182, the spec's decisions D6 and D13). -/
def Obligations.RegisterBlockIsLoaded : Prop :=
  ∀ (x : Reg) (s : State),
    decode (formatI 0xF#4 x 0x65#8) = .ok (.ldRegs x) ∧
    (s.idx.toNat + x.val ≤ 4095 →
      ∃ t, exec (.ldRegs x) s = .next t ∧
        (∀ k : Reg, k ≤ x → readV t k = memRead s (effectiveAddress s k.val)) ∧
        KeepsRegsBut (fun k => k ≤ x) s t ∧ KeepsAllButRegs s t) ∧
    (4095 < s.idx.toNat + x.val →
      ∃ t, exec (.ldRegs x) s = .next t ∧ IsFaultEntry .memoryOutOfRange (encode (.ldRegs x)) s t)

/-! ### Display, keypad, timers, outputs -/

/-- 44_display_keypad R190: CLS unsets every pixel and changes no state of the core. -/
def Obligations.ClearUnsetsEveryPixel : Prop :=
  ∀ s : State,
    decode 0x00E0#16 = .ok .cls ∧
    ∃ t, exec .cls s = .next t ∧ (∀ px py, pixel t.env.fb px py = false) ∧
      KeepsRegs s t ∧ t.pc = s.pc ∧ t.idx = s.idx ∧ KeepsCallStack s t ∧ KeepsTimers s t ∧ KeepsMemory s t ∧
      KeepsControl s t

/-- DRW toggles each pixel once for every 1 bit of the sprite over it, each coordinate wrapping on its own, and VF is 1
exactly when one of these toggles turned a set pixel off; the coordinates are read before VF is written. So on a display
of at least 8 by `n` pixels it turns over exactly the pixels under 1 bits, and VF tells whether one of them was set. It
faults with no pixel touched when the last row lies above 4095. With no row it draws nothing and writes VF = 0
(44_display_keypad R191, the spec's decisions D6, D16 and D17; the display's size is the configuration's, log 5, 15). -/
def Obligations.DrawTogglesLitPixels : Prop :=
  ∀ (x y : Reg) (n : Nat) (s : State), n < 16 →
    decode (formatR 0xD#4 x y (BitVec.ofNat 4 n)) = .ok (.drw x y n) ∧
    (n = 0 ∨ s.idx.toNat + n - 1 ≤ 4095 →
      ∃ t, exec (.drw x y n) s = .next t ∧
        (∀ px py, (pixel t.env.fb px py ≠ pixel s.env.fb px py ↔
          litBitsOver s (readV s x).toNat (readV s y).toNat n px py % 2 = 1)) ∧
        readV t regVF ≤ 1#8 ∧
        (readV t regVF = 1#8 ↔ ∃ px py, 1 ≤ litBitsOver s (readV s x).toNat (readV s y).toNat n px py ∧
          (pixel s.env.fb px py = true ∨ 2 ≤ litBitsOver s (readV s x).toNat (readV s y).toNat n px py)) ∧
        (8 ≤ s.config.displayWidth → n ≤ s.config.displayHeight →
          (∀ px py, (pixel t.env.fb px py ≠ pixel s.env.fb px py ↔
            UnderLitBit s (readV s x).toNat (readV s y).toNat n px py)) ∧
          (readV t regVF = 1#8 ↔ ∃ px py, pixel s.env.fb px py = true ∧
            UnderLitBit s (readV s x).toNat (readV s y).toNat n px py)) ∧
        KeepsRegsBut (fun r => r = regVF) s t ∧ t.pc = s.pc ∧ t.idx = s.idx ∧ KeepsCallStack s t ∧
        KeepsTimers s t ∧ KeepsMemory s t ∧ KeepsControl s t) ∧
    (1 ≤ n → 4095 < s.idx.toNat + n - 1 →
      ∃ t, exec (.drw x y n) s = .next t ∧ IsFaultEntry .memoryOutOfRange (encode (.drw x y n)) s t)

/-- The number of `DispSetPixel` calls of a draw equals the number of 1 bits of its row bytes, and every call names a
pixel of the grid (44_display_keypad R191; 47_interfaces R223). -/
def Obligations.OneCallPerLitBit : Prop :=
  ∀ (c : Config) (x0 y0 row : Nat) (rows : List Byte),
    (spriteCalls c x0 y0 row rows).length =
        (rows.map fun b => ((List.range 8).filter fun k => b.getLsbD k).length).sum ∧
      (c.wf = true → ∀ p ∈ spriteCalls c x0 y0 row rows, p.1 < c.displayWidth ∧ p.2 < c.displayHeight)

/-- The key tests, for the whole value of VX; above 15 they fault without a query (44_display_keypad R192, R193, the
spec's decision D7). -/
def Obligations.SkipOnKey : Prop :=
  ∀ (x : Reg) (s : State),
    decode (formatI 0xE#4 x 0x9E#8) = .ok (.skp x) ∧ decode (formatI 0xE#4 x 0xA1#8) = .ok (.sknp x) ∧
    (∀ k : Reg, (readV s x).toNat = k.val →
      (∃ t, exec (.skp x) s = .next t ∧
        t.pc.toNat = (if keyPressed s.env k = true then (s.pc.toNat + 2) % 65536 else s.pc.toNat) ∧
        KeepsAllButPc s t) ∧
      (∃ t, exec (.sknp x) s = .next t ∧
        t.pc.toNat = (if keyPressed s.env k = false then (s.pc.toNat + 2) % 65536 else s.pc.toNat) ∧
        KeepsAllButPc s t)) ∧
    (15 < (readV s x).toNat →
      (∃ t, exec (.skp x) s = .next t ∧ IsFaultEntry .keyIndexOutOfRange (encode (.skp x)) s t) ∧
      (∃ t, exec (.sknp x) s = .next t ∧ IsFaultEntry .keyIndexOutOfRange (encode (.sknp x)) s t))

/-- LD_VX_K stores the pressed key the environment reports; with none pressed it steps `pc` back to its own address and
changes nothing else (44_display_keypad R194). -/
def Obligations.BlockForKey : Prop :=
  ∀ (x : Reg) (s : State),
    decode (formatI 0xF#4 x 0x0A#8) = .ok (.ldVxK x) ∧
    (∀ k : Reg, getPressedKey s.env = some k →
      ∃ t, exec (.ldVxK x) s = .next t ∧ (readV t x).toNat = k.val ∧ KeepsRegsBut (fun r => r = x) s t ∧
        KeepsAllButRegs s t) ∧
    (getPressedKey s.env = none →
      ∃ t, exec (.ldVxK x) s = .next t ∧ t.pc = s.pc - 2#16 ∧ KeepsAllButPc s t)

/-- `GetPressedKey()` is none exactly when no key is pressed, else a pressed key; and every pressed key is the answer
for some choice of the environment (47_interfaces R226; the choice's form is the model's, log 4). -/
def Obligations.ReportedKeyIsAPressedKey : Prop :=
  ∀ e : Env,
    (getPressedKey e = none ↔ ∀ k : Reg, keyPressed e k = false) ∧
    (∀ k : Reg, getPressedKey e = some k → keyPressed e k = true) ∧
    (∀ k : Reg, keyPressed e k = true → ∃ p : Reg, getPressedKey { e with keyPick := p } = some k)

/-- The timer accesses; `last_timer_tick` is not touched (45_timers R210, R211, R212; that the audio output follows the
sound timer is 47_interfaces R233, the spec's decision D25). -/
def Obligations.TimerAccess : Prop :=
  ∀ (x : Reg) (s : State),
    decode (formatI 0xF#4 x 0x07#8) = .ok (.ldVxDt x) ∧ decode (formatI 0xF#4 x 0x15#8) = .ok (.ldDtVx x) ∧
    decode (formatI 0xF#4 x 0x18#8) = .ok (.ldStVx x) ∧
    (∃ t, exec (.ldVxDt x) s = .next t ∧ PlainResult x s.dt s t) ∧
    (∃ t, exec (.ldDtVx x) s = .next t ∧ t.dt = readV s x ∧ t.st = s.st ∧ t.lastTimerTick = s.lastTimerTick ∧
      KeepsRegs s t ∧ t.pc = s.pc ∧ t.idx = s.idx ∧ KeepsCallStack s t ∧ KeepsMemory s t ∧ KeepsDisplay s t ∧
      KeepsControl s t) ∧
    (∃ t, exec (.ldStVx x) s = .next t ∧ t.st = readV s x ∧ t.dt = s.dt ∧ t.lastTimerTick = s.lastTimerTick ∧
      (audioEnable t = true ↔ readV s x ≠ 0#8) ∧
      KeepsRegs s t ∧ t.pc = s.pc ∧ t.idx = s.idx ∧ KeepsCallStack s t ∧ KeepsMemory s t ∧ KeepsDisplay s t ∧
      KeepsControl s t)

/-- Between ticks the outputs are functions of the state: audio while the sound timer is nonzero, `faulted`, `stopped`,
and the code of the fault kind (47_interfaces R232, R233, 10_state R38; the outputs and codes are the spec's decisions D8
and D25). -/
def Obligations.OutputsFollowTheState : Prop :=
  (∀ s : State, (audioEnable s = true ↔ s.st ≠ 0#8) ∧ (faultedOutput s = true ↔ s.runState = .faulted) ∧
    (stoppedOutput s = true ↔ s.runState = .stopped)) ∧
  ∀ k : FaultKind, k.code.toNat =
    (match k with
      | .noFault => 0
      | .invalidInstruction => 1
      | .stackOverflow => 2
      | .stackUnderflow => 3
      | .memoryOutOfRange => 4
      | .keyIndexOutOfRange => 5)

/-! ### What an instruction cannot read, and the placed instruction -/

/-- The random byte is read by RND only (47_interfaces R229): any other instruction does the same whatever the byte
is. -/
def Obligations.OnlyRndReadsTheRandomByte : Prop :=
  ∀ (i : Instr) (s t : State) (b : Byte), (∀ x kk, i ≠ .rnd x kk) → exec i s = .next t →
    exec i (s.setEnv { s.env with rnd := b }) = .next (t.setEnv { t.env with rnd := b })

/-- The key state is read by SKP, SKNP and LD_VX_K only (47_interfaces R225, R226): any other instruction does the same
whatever keys are pressed. -/
def Obligations.OnlyKeyInstructionsReadTheKeys : Prop :=
  ∀ (i : Instr) (s t : State) (ks : BitVec 16) (p : Reg),
    (∀ x, i ≠ .skp x ∧ i ≠ .sknp x ∧ i ≠ .ldVxK x) → exec i s = .next t →
    exec i (s.setEnv { s.env with keys := ks, keyPick := p }) =
      .next (t.setEnv { t.env with keys := ks, keyPick := p })

/-- A word placed as the host's load is what the very next tick fetches: the core is ready and the opcode at `pc` is the
word, so the tick runs it (log 6). -/
def Obligations.PlacedWordIsFetched : Prop :=
  ∀ (s : State) (w : Nat), Ready (s.withFetchWord 16 w) ∧
    fetchOpcode (s.withFetchWord 16 w) = BitVec.ofNat 16 w ∧
    ∀ i, decodeTableWord 16 w = some i → Fetches (s.withFetchWord 16 w) i

/-- Nothing changes the configuration: no tick, no reset, no load of an image, no placed instruction. That a state
carries it is the model's form (00_scope R5; log 15). -/
def Obligations.ConfigurationNeverChanges : Prop :=
  (∀ s t : State, step s = .next t → t.config = s.config) ∧
    (∀ s : State, (assertReset s).config = s.config) ∧
    (∀ (bytes : List Byte) (s t : State), loadImage bytes s = .next t → t.config = s.config) ∧
    ∀ (s : State) (nbits w : Nat), (s.withFetchWord nbits w).config = s.config
end

