-- ==== Sys2Proof/Laws/Decode.lean ====
section
/-! SUPPORT. The fields of an opcode built in a format, the opcode rebuilt from its fields, and what the decoder
answers. -/

namespace Sys2Proof

/-! ### Fields of a built opcode -/

theorem groupField_formatA (g : Nibble) (nnn : Addr12) : groupField (formatA g nnn) = g := by
  unfold groupField formatA; ext i hi; simp; grind

theorem nnnField_formatA (g : Nibble) (nnn : Addr12) : nnnField (formatA g nnn) = nnn := by
  unfold nnnField formatA; ext i hi; simp; grind

theorem groupField_formatI (g : Nibble) (x : Reg) (kk : Byte) : groupField (formatI g x kk) = g := by
  unfold groupField formatI; ext i hi; simp; grind

theorem xField_formatI (g : Nibble) (x : Reg) (kk : Byte) : xField (formatI g x kk) = x := by
  have : (formatI g x kk).extractLsb' 8 4 = regBits x := by unfold formatI; ext i hi; simp; grind
  unfold xField; rw [this]; rfl

theorem kkField_formatI (g : Nibble) (x : Reg) (kk : Byte) : kkField (formatI g x kk) = kk := by
  unfold kkField formatI; ext i hi; simp; grind

theorem groupField_formatR (g : Nibble) (x y : Reg) (n : Nibble) : groupField (formatR g x y n) = g := by
  unfold groupField formatR; ext i hi; simp; grind

theorem xField_formatR (g : Nibble) (x y : Reg) (n : Nibble) : xField (formatR g x y n) = x := by
  have : (formatR g x y n).extractLsb' 8 4 = regBits x := by unfold formatR; ext i hi; simp; grind
  unfold xField; rw [this]; rfl

theorem yField_formatR (g : Nibble) (x y : Reg) (n : Nibble) : yField (formatR g x y n) = y := by
  have : (formatR g x y n).extractLsb' 4 4 = regBits y := by unfold formatR; ext i hi; simp; grind
  unfold yField; rw [this]; rfl

theorem nField_formatR (g : Nibble) (x y : Reg) (n : Nibble) : nField (formatR g x y n) = n := by
  unfold nField formatR; ext i hi; simp; grind

/-! ### An opcode rebuilt from its fields -/

theorem formatA_fields (op : Opcode) : formatA (groupField op) (nnnField op) = op := by
  simp only [formatA, groupField, nnnField]; ext i hi; simp; grind

theorem formatI_fields (op : Opcode) : formatI (groupField op) (xField op) (kkField op) = op := by
  have hx : regBits (xField op) = op.extractLsb' 8 4 := rfl
  simp only [formatI, groupField, kkField, hx]; ext i hi; simp; grind

theorem formatR_fields (op : Opcode) : formatR (groupField op) (xField op) (yField op) (nField op) = op := by
  have hx : regBits (xField op) = op.extractLsb' 8 4 := rfl
  have hy : regBits (yField op) = op.extractLsb' 4 4 := rfl
  simp only [formatR, groupField, nField, hx, hy]; ext i hi; simp; grind

/-! ### Fields as numbers -/

theorem groupField_toNat (op : Opcode) : (groupField op).toNat = op.toNat / 4096 := by
  have := op.isLt
  simp [groupField, Nat.shiftRight_eq_div_pow]; omega

theorem xField_val (op : Opcode) : (xField op).val = op.toNat / 256 % 16 := by
  simp [xField, Nat.shiftRight_eq_div_pow]

theorem yField_val (op : Opcode) : (yField op).val = op.toNat / 16 % 16 := by
  simp [yField, Nat.shiftRight_eq_div_pow]

theorem nField_toNat (op : Opcode) : (nField op).toNat = op.toNat % 16 := by simp [nField]

theorem kkField_toNat (op : Opcode) : (kkField op).toNat = op.toNat % 256 := by simp [kkField]

theorem nnnField_toNat (op : Opcode) : (nnnField op).toNat = op.toNat % 4096 := by simp [nnnField]

/-! ### The bytes of an opcode -/

/-- The two bytes of an opcode, joined high byte first, are the opcode. -/
theorem highByte_append_lowByte (op : Opcode) : highByte op ++ lowByte op = op := by
  simp only [highByte, lowByte]; ext i hi; simp; grind

/-- The table's decoder is the decoder on the table word. -/
theorem decodeTableWord_eq (nbits w : Nat) : decodeTableWord nbits w = classify (tableWord nbits w) := by
  simp only [decodeTableWord, opcodeBytes, decodeBytes, highByte_append_lowByte, decode]
  cases classify (tableWord nbits w) <;> rfl

/-! ### What the decoder answers -/

theorem decode_eq_ok {op : Opcode} {i : Instr} : decode op = .ok i ↔ classify op = some i := by
  unfold decode; cases classify op <;> simp

theorem decode_eq_error {op : Opcode} {e : DecodeError} :
    decode op = .error e ↔ classify op = none ∧ e = .invalidInstruction op := by
  unfold decode; cases classify op <;> simp [eq_comm]

/-- The decoder's one error carries the opcode itself. -/
theorem decode_ok_or_error (op : Opcode) :
    (∃ i, decode op = .ok i) ∨ decode op = .error (.invalidInstruction op) := by
  unfold decode; cases classify op <;> simp

end Sys2Proof
end

