-- ==== Sys2Proof/Laws/Display.lean ====
section
/-! SUPPORT. The laws of the display and keypad collaborator: a toggle changes one pixel and keeps the picture's form, a
list of calls toggles each pixel as often as it names it, where the calls of a sprite lie, and what `GetPressedKey`
answers. -/

namespace Sys2Proof.Machine

/-! ### Pixels -/

@[simp] theorem pixel_dispClear (fb : Framebuffer) (x y : Nat) : pixel (dispClear fb) x y = false := by
  simp [pixel, dispClear]

theorem mem_insertPixel {fb : Framebuffer} {p q : Nat × Nat} : q ∈ insertPixel fb p ↔ q = p ∨ q ∈ fb := by
  induction fb with
  | nil => simp [insertPixel]
  | cons a fb ih =>
    rw [insertPixel]
    split
    · simp
    · simp only [List.mem_cons, ih]; tauto

/-- A toggle turns its pixel over and leaves every other alone. -/
theorem pixel_togglePixel (fb : Framebuffer) (x y px py : Nat) :
    pixel (togglePixel fb x y) px py = if px = x ∧ py = y then !pixel fb px py else pixel fb px py := by
  have hp : (px = x ∧ py = y) ↔ (px, py) = (x, y) := by simp
  simp only [hp, togglePixel, pixel, decide_eq_true_eq]
  by_cases he : (px, py) = (x, y)
  · rw [he]; by_cases h : (x, y) ∈ fb <;> simp [h, mem_insertPixel]
  · by_cases h : (x, y) ∈ fb
    · simp only [h, he, if_true, if_false, List.mem_filter]; simp [he]
    · simp [h, he, mem_insertPixel]

/-! ### The form of a picture -/

theorem pixelBefore_iff {p q : Nat × Nat} : pixelBefore p q = true ↔ p.2 < q.2 ∨ p.2 = q.2 ∧ p.1 < q.1 := by
  simp [pixelBefore]

theorem Framebuffer.wf_iff {c : Config} {fb : Framebuffer} :
    Framebuffer.wf c fb = true ↔
      (fb.Pairwise fun p q => pixelBefore p q = true) ∧ ∀ p ∈ fb, p.1 < c.displayWidth ∧ p.2 < c.displayHeight := by
  simp [Framebuffer.wf]

@[simp] theorem Framebuffer.wf_dispClear (c : Config) (fb : Framebuffer) : Framebuffer.wf c (dispClear fb) = true := rfl

theorem insertPixel_pairwise {fb : Framebuffer} {p : Nat × Nat} (hp : p ∉ fb)
    (h : fb.Pairwise fun p q => pixelBefore p q = true) :
    (insertPixel fb p).Pairwise fun p q => pixelBefore p q = true := by
  induction fb with
  | nil => simp [insertPixel]
  | cons q fb ih =>
    rw [List.pairwise_cons] at h
    rw [List.mem_cons, not_or] at hp
    rw [insertPixel]
    split
    · rename_i hpq
      refine List.pairwise_cons.2 ⟨fun r hr => ?_, List.pairwise_cons.2 h⟩
      rcases List.mem_cons.1 hr with rfl | hr
      · exact hpq
      · have := h.1 r hr; rw [pixelBefore_iff] at *; omega
    · rename_i hpq
      refine List.pairwise_cons.2 ⟨fun r hr => ?_, ih hp.2 h.2⟩
      rcases mem_insertPixel.1 hr with rfl | hr
      · have hne := hp.1
        rw [pixelBefore_iff] at *
        rw [Prod.ext_iff] at hne
        omega
      · exact h.1 r hr

/-- A toggle of a pixel of the grid keeps the form. -/
theorem Framebuffer.wf_togglePixel {c : Config} {fb : Framebuffer} (h : Framebuffer.wf c fb = true) {x y : Nat}
    (hx : x < c.displayWidth) (hy : y < c.displayHeight) : Framebuffer.wf c (togglePixel fb x y) = true := by
  rw [Framebuffer.wf_iff] at h ⊢
  unfold togglePixel
  split
  · exact ⟨h.1.filter _, fun p hp => h.2 p (List.mem_filter.1 hp).1⟩
  · rename_i hn
    refine ⟨insertPixel_pairwise (by simpa [pixel] using hn) h.1, fun p hp => ?_⟩
    rcases mem_insertPixel.1 hp with rfl | hp
    · exact ⟨hx, hy⟩
    · exact h.2 p hp

/-- A picture given pixel by pixel has the form. -/
theorem Framebuffer.wf_ofFn (c : Config) (f : Nat → Nat → Bool) : Framebuffer.wf c (Framebuffer.ofFn c f) = true := by
  rw [Framebuffer.wf_iff, Framebuffer.ofFn]
  constructor
  · rw [List.pairwise_flatMap]
    constructor
    · intro y _
      refine List.Pairwise.map _ (R := (· < ·)) (fun a b hab => ?_) (List.pairwise_lt_range.filter _)
      simp [pixelBefore, hab]
    · refine List.pairwise_lt_range.imp fun hab p hp q hq => ?_
      obtain ⟨_, _, rfl⟩ := List.mem_map.1 hp
      obtain ⟨_, _, rfl⟩ := List.mem_map.1 hq
      simp [pixelBefore, hab]
  · intro p hp
    simp only [List.mem_flatMap, List.mem_map, List.mem_filter, List.mem_range] at hp
    obtain ⟨y, hy, x, hx, rfl⟩ := hp
    exact ⟨hx.1, hy⟩

/-! ### Lists of calls -/

/-- Every call names a pixel of the grid of the machine `c`. -/
def CallsInGrid (c : Config) (calls : List (Nat × Nat)) : Prop :=
  ∀ p ∈ calls, p.1 < c.displayWidth ∧ p.2 < c.displayHeight

/-- A list of calls turns a pixel over exactly when it names it an odd number of times. -/
theorem pixel_drawCalls (calls : List (Nat × Nat)) (fb : Framebuffer) (f : Bool) (px py : Nat) :
    pixel (drawCalls fb f calls).1 px py = (pixel fb px py ^^ decide (calls.count (px, py) % 2 = 1)) := by
  induction calls generalizing fb f with
  | nil => simp [drawCalls]
  | cons q calls ih =>
    obtain ⟨qx, qy⟩ := q
    rw [drawCalls, ih, List.count_cons]
    simp only [dispSetPixel, pixel_togglePixel]
    by_cases h : px = qx ∧ py = qy
    · obtain ⟨rfl, rfl⟩ := h
      rcases Nat.mod_two_eq_zero_or_one (calls.count (px, py)) with hc | hc <;>
        simp [Nat.add_mod, hc]
    · have hne : ¬ (qx = px ∧ qy = py) := fun ⟨a, b⟩ => h ⟨a.symm, b.symm⟩
      simp [h, hne]

/-- The collision flag of a list of calls is set exactly when it was, or the list names a pixel that was set, or names a
pixel twice. -/
theorem drawCalls_collision (calls : List (Nat × Nat)) (fb : Framebuffer) (f : Bool) :
    (drawCalls fb f calls).2 = true ↔
      f = true ∨ ∃ px py, 1 ≤ calls.count (px, py) ∧ (pixel fb px py = true ∨ 2 ≤ calls.count (px, py)) := by
  induction calls generalizing fb f with
  | nil => simp [drawCalls]
  | cons q calls ih =>
    obtain ⟨qx, qy⟩ := q
    rw [drawCalls, ih]
    simp only [dispSetPixel, Bool.or_eq_true, or_assoc, pixel_togglePixel]
    refine or_congr_right ⟨?_, ?_⟩
    · rintro (h | ⟨px, py, h1, h2⟩)
      · exact ⟨qx, qy, by simp, .inl h⟩
      · refine ⟨px, py, by rw [List.count_cons]; omega, ?_⟩
        by_cases hp : px = qx ∧ py = qy
        · obtain ⟨rfl, rfl⟩ := hp; right; rw [List.count_cons_self]; omega
        · rw [if_neg hp] at h2
          rcases h2 with h2 | h2
          · exact .inl h2
          · right; rw [List.count_cons]; omega
    · rintro ⟨px, py, h1, h2⟩
      by_cases hp : px = qx ∧ py = qy
      · obtain ⟨rfl, rfl⟩ := hp
        by_cases hs : pixel fb px py = true
        · exact .inl hs
        · right
          rw [List.count_cons_self] at h2
          exact ⟨px, py, by rcases h2 with h2 | h2 <;> [exact absurd h2 hs; omega], .inl (by simpa using hs)⟩
      · right
        have hne : ¬ (qx = px ∧ qy = py) := fun ⟨a, b⟩ => hp ⟨a.symm, b.symm⟩
        refine ⟨px, py, ?_⟩
        rw [if_neg hp]
        simpa [List.count_cons, hne] using And.intro h1 h2

/-- Calls inside the grid keep the form of the picture. -/
theorem Framebuffer.wf_drawCalls {c : Config} {calls : List (Nat × Nat)} (hg : CallsInGrid c calls) {fb : Framebuffer}
    (h : Framebuffer.wf c fb = true) (f : Bool) : Framebuffer.wf c (drawCalls fb f calls).1 = true := by
  induction calls generalizing fb f with
  | nil => exact h
  | cons q calls ih =>
    obtain ⟨qx, qy⟩ := q
    have hq := hg (qx, qy) (by simp)
    exact ih (fun p hp => hg p (List.mem_cons_of_mem _ hp)) (Framebuffer.wf_togglePixel h hq.1 hq.2) _

/-! ### The calls of a sprite -/

theorem mem_litColumns {b : Byte} {col : Nat} : col ∈ litColumns b ↔ col < 8 ∧ b.getLsbD (7 - col) = true := by
  simp [litColumns]

/-- A call of a sprite drawn from row `row` on is one lit bit of one of its rows. -/
theorem mem_spriteCalls {g : Config} {x0 y0 row : Nat} {rows : List Byte} {c : Nat × Nat} :
    c ∈ spriteCalls g x0 y0 row rows ↔
      ∃ (k col : Nat) (h : k < rows.length), col < 8 ∧ (rows[k]).getLsbD (7 - col) = true ∧
        c = ((x0 + col) % g.displayWidth, (y0 + (row + k)) % g.displayHeight) := by
  induction rows generalizing row with
  | nil => simp [spriteCalls]
  | cons b rows ih =>
    rw [spriteCalls, List.mem_append, ih]
    constructor
    · rintro (h | ⟨k, col, hk, hc, hb, rfl⟩)
      · obtain ⟨col, hcol, rfl⟩ := List.mem_map.1 h
        rw [mem_litColumns] at hcol
        exact ⟨0, col, by simp, hcol.1, hcol.2, rfl⟩
      · exact ⟨k + 1, col, by simpa using hk, hc, by simpa using hb, by rw [show row + 1 + k = row + (k + 1) by omega]⟩
    · rintro ⟨k, col, hk, hc, hb, rfl⟩
      cases k with
      | zero => exact .inl (List.mem_map.2 ⟨col, mem_litColumns.2 ⟨hc, hb⟩, rfl⟩)
      | succ k =>
        exact .inr ⟨k, col, by simpa using hk, hc, by simpa using hb, by rw [show row + 1 + k = row + (k + 1) by omega]⟩

theorem spriteCalls_inGrid {g : Config} (h : g.wf = true) (x0 y0 row : Nat) (rows : List Byte) :
    CallsInGrid g (spriteCalls g x0 y0 row rows) := by
  simp only [Config.wf, Bool.and_eq_true, decide_eq_true_eq] at h
  intro p hp
  obtain ⟨k, col, _, _, _, rfl⟩ := mem_spriteCalls.1 hp
  exact ⟨Nat.mod_lt _ h.1.2, Nat.mod_lt _ h.2⟩

theorem litColumns_nodup (b : Byte) : (litColumns b).Nodup := List.nodup_range.filter _

/-- The pixels of one draw are distinct while the sprite is no wider and no taller than the display. -/
theorem spriteCalls_nodup {g : Config} {x0 y0 row : Nat} {rows : List Byte} (hw : 8 ≤ g.displayWidth)
    (h : row + rows.length ≤ g.displayHeight) : (spriteCalls g x0 y0 row rows).Nodup := by
  induction rows generalizing row with
  | nil => simp [spriteCalls]
  | cons b rows ih =>
    simp only [List.length_cons] at h
    rw [spriteCalls, List.nodup_append]
    refine ⟨?_, ih (by omega), ?_⟩
    · refine (litColumns_nodup b).map_on ?_
      intro c hc d hd hcd
      rw [mem_litColumns] at hc hd
      have := Nat.ModEq.add_left_cancel' x0 (Prod.mk.inj hcd).1
      exact Nat.ModEq.eq_of_lt_of_lt this (by omega) (by omega)
    · intro p hp q hq hpq
      obtain ⟨c, _, rfl⟩ := List.mem_map.1 hp
      obtain ⟨k, d, hk, _, _, rfl⟩ := mem_spriteCalls.1 hq
      have := Nat.ModEq.add_left_cancel' y0 (Prod.mk.inj hpq).2
      have := Nat.ModEq.eq_of_lt_of_lt this (by omega) (by omega)
      omega

/-- The calls of a draw name a pixel as often as 1 bits lie over it. -/
theorem count_spriteCalls (s : State) (x0 y0 n px py : Nat) :
    (spriteCalls s.config x0 y0 0 (spriteRows s n)).count (px, py) = litBitsOver s x0 y0 n px py := by
  have key : ∀ m row, (spriteCalls s.config x0 y0 row
      ((List.range m).map fun k => memRead s (s.idx.toNat + row + k))).count (px, py) =
      ((List.range m).map fun k =>
        ((List.range 8).filter fun col => decide (LitBitOver s x0 y0 px py (row + k) col)).length).sum := by
    intro m
    induction m with
    | zero => intro row; simp [spriteCalls]
    | succ m ih =>
      intro row
      rw [List.range_succ_eq_map (n := m)]
      simp only [List.map_cons, List.map_map, List.sum_cons, spriteCalls, List.count_append]
      congr 1
      · rw [List.count_eq_countP, List.countP_map, List.countP_eq_length_filter, litColumns, List.filter_filter]
        refine congrArg List.length (List.filter_congr fun col _ => ?_)
        rw [Bool.eq_iff_iff]
        simp only [Function.comp_apply, Bool.and_eq_true, beq_iff_eq, Prod.mk.injEq, LitBitOver, Bool.decide_and,
          decide_eq_true_eq, Nat.add_zero, Bool.decide_eq_true]
        exact ⟨fun h => ⟨h.2, h.1.1.symm, h.1.2.symm⟩, fun h => ⟨⟨h.2.1.symm, h.2.2.symm⟩, h.1⟩⟩
      · simpa [Function.comp_def, Nat.add_assoc, Nat.add_comm 1] using ih (row + 1)
  simpa [litBitsOver, spriteRows, Memory.readBytes, effectiveAddress, memRead] using key n 0

/-! ### Keys -/

/-- `GetPressedKey` answers a pressed key, or none when no key is pressed. -/
theorem getPressedKey_cases (e : Env) :
    (∃ k, getPressedKey e = some k ∧ keyPressed e k = true) ∨
      (getPressedKey e = none ∧ ∀ k, keyPressed e k = false) := by
  unfold getPressedKey
  split
  · rename_i h; exact .inl ⟨_, rfl, h⟩
  · cases hf : (List.finRange 16).find? (keyPressed e) with
    | some k => exact .inl ⟨k, rfl, List.find?_some hf⟩
    | none =>
      refine .inr ⟨rfl, fun k => ?_⟩
      simpa using List.find?_eq_none.1 hf k (List.mem_finRange k)

end Sys2Proof.Machine
end

