-- ==== Sys2Proof/Laws/Memory.lean ====
section
/-! SUPPORT. The laws of memory: read after write, the canonical form kept by every operation, and that canonical
memories that read alike are equal. -/

namespace Sys2Proof.Machine

variable {g : Config}

/-! ### Read after write -/

theorem Memory.read_erase (m : Memory) (a c : Nat) :
    Memory.read g (Memory.erase m a) c = if c = a then resetByte g a else Memory.read g m c := by
  induction m with
  | nil => by_cases hc : c = a <;> simp [Memory.erase, Memory.read, hc]
  | cons e m ih =>
    obtain ⟨b, w⟩ := e
    simp only [Memory.erase] at ih ⊢
    by_cases hb : b = a <;> by_cases hc : c = b <;> simp_all [Memory.read]

theorem Memory.read_insert (m : Memory) (a c : Nat) (v : Byte) :
    Memory.read g (Memory.insert m a v) c = if c = a then v else Memory.read g m c := by
  induction m with
  | nil => simp [Memory.insert, Memory.read]
  | cons e m ih =>
    obtain ⟨b, w⟩ := e
    simp only [Memory.insert]
    split
    · simp [Memory.read]
    · split
      · rename_i hab; by_cases hc : c = a <;> simp_all [Memory.read]
      · rename_i hlt hab
        by_cases hc : c = b
        · simp_all [Memory.read, Ne.symm hab]
        · simp [Memory.read, hc, ih]

/-- A read after a write: the byte written at its address, every other byte as before. -/
theorem Memory.read_write (m : Memory) (a c : Nat) (v : Byte) :
    Memory.read g (Memory.write g m a v) c = if c = a then v else Memory.read g m c := by
  unfold Memory.write
  split
  · rename_i hv; rw [Memory.read_erase, hv]
  · exact Memory.read_insert m a c v

/-- A read after ascending writes from `a`: the byte written there, every byte outside as before. -/
theorem Memory.read_writeBytes (m : Memory) (a : Nat) (bs : List Byte) (c : Nat) :
    Memory.read g (Memory.writeBytes g m a bs) c =
      if h : a ≤ c ∧ c - a < bs.length then bs[c - a]'h.2 else Memory.read g m c := by
  induction bs generalizing m a with
  | nil => simp [Memory.writeBytes]
  | cons b bs ih =>
    rw [Memory.writeBytes, ih, Memory.read_write]
    by_cases hc : c = a
    · subst hc; simp
    · by_cases hlt : a + 1 ≤ c
      · obtain ⟨d, rfl⟩ : ∃ d, c = a + 1 + d := ⟨c - (a + 1), by omega⟩
        have h1 : a + 1 + d - a = d + 1 := by omega
        have h2 : a + 1 + d - (a + 1) = d := by omega
        have h3 : a ≤ a + 1 + d := by omega
        simp [h1, h2, h3, hc]
      · simp [hlt, hc, show ¬ a ≤ c by omega]

/-! ### The canonical form -/

theorem Memory.wfFrom_cons {lo a : Nat} {v : Byte} {m : Memory} :
    Memory.wfFrom g lo ((a, v) :: m) = true ↔
      lo ≤ a ∧ a < Config.memSize ∧ v ≠ resetByte g a ∧ Memory.wfFrom g (a + 1) m = true := by
  simp [Memory.wfFrom, and_assoc]

theorem Memory.wfFrom_mono {lo lo' : Nat} {m : Memory} (h : Memory.wfFrom g lo m = true) (hle : lo' ≤ lo) :
    Memory.wfFrom g lo' m = true := by
  cases m with
  | nil => rfl
  | cons e m =>
    obtain ⟨b, w⟩ := e
    rw [Memory.wfFrom_cons] at h ⊢
    exact ⟨by omega, h.2⟩

/-- Below the first listed address every byte holds its reset contents. -/
theorem Memory.read_below {lo : Nat} {m : Memory} (h : Memory.wfFrom g lo m = true) {c : Nat} (hc : c < lo) :
    Memory.read g m c = resetByte g c := by
  induction m generalizing lo with
  | nil => rfl
  | cons e m ih =>
    obtain ⟨b, w⟩ := e
    rw [Memory.wfFrom_cons] at h
    simp [Memory.read, show c ≠ b by omega, ih h.2.2.2 (show c < b + 1 by omega)]

theorem Memory.wfFrom_erase {lo : Nat} {m : Memory} (h : Memory.wfFrom g lo m = true) (a : Nat) :
    Memory.wfFrom g lo (Memory.erase m a) = true := by
  induction m generalizing lo with
  | nil => rfl
  | cons e m ih =>
    obtain ⟨b, w⟩ := e
    rw [Memory.wfFrom_cons] at h
    have ih' := ih h.2.2.2
    by_cases hb : b = a
    · rw [show Memory.erase ((b, w) :: m) a = Memory.erase m a by simp [Memory.erase, hb]]
      exact Memory.wfFrom_mono ih' (by omega)
    · rw [show Memory.erase ((b, w) :: m) a = (b, w) :: Memory.erase m a by simp [Memory.erase, hb]]
      exact Memory.wfFrom_cons.2 ⟨h.1, h.2.1, h.2.2.1, ih'⟩

theorem Memory.wfFrom_insert {lo : Nat} {m : Memory} (h : Memory.wfFrom g lo m = true) {a : Nat} {v : Byte}
    (hlo : lo ≤ a) (ha : a < Config.memSize) (hv : v ≠ resetByte g a) :
    Memory.wfFrom g lo (Memory.insert m a v) = true := by
  induction m generalizing lo with
  | nil => simp [Memory.insert, Memory.wfFrom, hlo, ha, hv]
  | cons e m ih =>
    obtain ⟨b, w⟩ := e
    rw [Memory.wfFrom_cons] at h
    simp only [Memory.insert]
    split
    · rename_i hab
      exact Memory.wfFrom_cons.2 ⟨hlo, ha, hv, Memory.wfFrom_cons.2 ⟨by omega, h.2⟩⟩
    · split
      · rename_i hab; subst hab
        exact Memory.wfFrom_cons.2 ⟨hlo, ha, hv, h.2.2.2⟩
      · rename_i hlt hab
        exact Memory.wfFrom_cons.2 ⟨h.1, h.2.1, h.2.2.1, ih h.2.2.2 (by omega)⟩

/-- A write inside memory keeps the canonical form. -/
theorem Memory.wf_write {m : Memory} (h : Memory.wf g m = true) {a : Nat} (ha : a < Config.memSize) (v : Byte) :
    Memory.wf g (Memory.write g m a v) = true := by
  unfold Memory.write
  split
  · exact Memory.wfFrom_erase h a
  · rename_i hv; exact Memory.wfFrom_insert h (Nat.zero_le a) ha hv

/-- Ascending writes inside memory keep the canonical form. -/
theorem Memory.wf_writeBytes {m : Memory} (h : Memory.wf g m = true) {a : Nat} {bs : List Byte}
    (ha : a + bs.length ≤ Config.memSize) : Memory.wf g (Memory.writeBytes g m a bs) = true := by
  induction bs generalizing m a with
  | nil => exact h
  | cons b bs ih =>
    simp only [List.length_cons] at ha
    exact ih (Memory.wf_write h (by omega) b) (by omega)

theorem Memory.eq_of_wfFrom {lo : Nat} {m n : Memory} (hm : Memory.wfFrom g lo m = true)
    (hn : Memory.wfFrom g lo n = true) (h : ∀ c, Memory.read g m c = Memory.read g n c) : m = n := by
  induction m generalizing n lo with
  | nil =>
    cases n with
    | nil => rfl
    | cons f n =>
      obtain ⟨b, w⟩ := f
      rw [Memory.wfFrom_cons] at hn
      have := h b
      simp only [Memory.read, if_true] at this
      exact absurd this.symm hn.2.2.1
  | cons e m ih =>
    obtain ⟨a, v⟩ := e
    have hm' := Memory.wfFrom_cons.1 hm
    cases n with
    | nil =>
      have := h a
      simp only [Memory.read, if_true] at this
      exact absurd this hm'.2.2.1
    | cons f n =>
      obtain ⟨b, w⟩ := f
      have hn' := Memory.wfFrom_cons.1 hn
      rcases Nat.lt_trichotomy a b with hab | hab | hab
      · have := h a
        rw [Memory.read_below (lo := b) (m := (b, w) :: n) (Memory.wfFrom_cons.2 ⟨le_refl b, hn'.2⟩) hab] at this
        simp only [Memory.read, if_true] at this
        exact absurd this hm'.2.2.1
      · subst hab
        have hv := h a
        simp only [Memory.read, if_true] at hv
        subst hv
        congr 1
        refine ih hm'.2.2.2 hn'.2.2.2 fun c => ?_
        by_cases hc : c < a + 1
        · rw [Memory.read_below hm'.2.2.2 hc, Memory.read_below hn'.2.2.2 hc]
        · have := h c
          simpa [Memory.read, show c ≠ a by omega] using this
      · have := h b
        rw [Memory.read_below (lo := a) (m := (a, v) :: m) (Memory.wfFrom_cons.2 ⟨le_refl a, hm'.2⟩) hab] at this
        simp only [Memory.read, if_true] at this
        exact absurd this.symm hn'.2.2.1

/-- Canonical memories that read alike are equal data. -/
theorem Memory.eq_of_read {m n : Memory} (hm : Memory.wf g m = true) (hn : Memory.wf g n = true)
    (h : ∀ c, Memory.read g m c = Memory.read g n c) : m = n := Memory.eq_of_wfFrom hm hn h

/-! ### Blocks and the fetch -/

@[simp] theorem Memory.length_readBytes (m : Memory) (a n : Nat) : (Memory.readBytes g m a n).length = n := by
  simp [Memory.readBytes]

theorem Memory.getElem_readBytes (m : Memory) (a n k : Nat) (h : k < n) :
    (Memory.readBytes g m a n)[k]'(by simpa using h) = Memory.read g m (a + k) := by
  simp [Memory.readBytes]

/-- The fetch inside memory is the byte at the address, high, and the next, low. -/
theorem Memory.fetchWord_inside (m : Memory) {a : Word16} (h : a.toNat + 1 ≤ 4095) :
    Memory.fetchWord g m a = Memory.read g m a.toNat ++ Memory.read g m (a.toNat + 1) := by
  simp [Memory.fetchWord, h]

/-- The fetch that reaches beyond memory is the zero opcode. -/
theorem Memory.fetchWord_outside (m : Memory) {a : Word16} (h : 4095 < a.toNat + 1) :
    Memory.fetchWord g m a = 0x0000#16 := by
  simp [Memory.fetchWord, show ¬ a.toNat + 1 ≤ 4095 by omega]

end Sys2Proof.Machine
end

