-- ==== Sys2Proof/Laws/State.lean ====
section
/-! SUPPORT. One lemma per field per update of the state, so that no proof unfolds a record update; reading a register
or a byte of memory after each update. -/

namespace Sys2Proof.Machine

/-! ### setV -/

@[simp] theorem setV_v (s : State) (r : Reg) (b : Byte) : (s.setV r b).v = s.v.set r.val b r.isLt := rfl
@[simp] theorem setV_pc (s : State) (r : Reg) (b : Byte) : (s.setV r b).pc = s.pc := rfl
@[simp] theorem setV_idx (s : State) (r : Reg) (b : Byte) : (s.setV r b).idx = s.idx := rfl
@[simp] theorem setV_stack (s : State) (r : Reg) (b : Byte) : (s.setV r b).stack = s.stack := rfl
@[simp] theorem setV_sp (s : State) (r : Reg) (b : Byte) : (s.setV r b).sp = s.sp := rfl
@[simp] theorem setV_dt (s : State) (r : Reg) (b : Byte) : (s.setV r b).dt = s.dt := rfl
@[simp] theorem setV_st (s : State) (r : Reg) (b : Byte) : (s.setV r b).st = s.st := rfl
@[simp] theorem setV_lastTimerTick (s : State) (r : Reg) (b : Byte) : (s.setV r b).lastTimerTick = s.lastTimerTick := rfl
@[simp] theorem setV_mem (s : State) (r : Reg) (b : Byte) : (s.setV r b).mem = s.mem := rfl
@[simp] theorem setV_runState (s : State) (r : Reg) (b : Byte) : (s.setV r b).runState = s.runState := rfl
@[simp] theorem setV_faultKind (s : State) (r : Reg) (b : Byte) : (s.setV r b).faultKind = s.faultKind := rfl
@[simp] theorem setV_faultOpcode (s : State) (r : Reg) (b : Byte) : (s.setV r b).faultOpcode = s.faultOpcode := rfl
@[simp] theorem setV_faultAddr (s : State) (r : Reg) (b : Byte) : (s.setV r b).faultAddr = s.faultAddr := rfl
@[simp] theorem setV_started (s : State) (r : Reg) (b : Byte) : (s.setV r b).started = s.started := rfl
@[simp] theorem setV_config (s : State) (r : Reg) (b : Byte) : (s.setV r b).config = s.config := rfl
@[simp] theorem setV_env (s : State) (r : Reg) (b : Byte) : (s.setV r b).env = s.env := rfl
@[simp] theorem memRead_setV (s : State) (r : Reg) (b : Byte) (c : Nat) : memRead (s.setV r b) c = memRead s c := rfl

/-! ### setRegs -/

@[simp] theorem setRegs_v (s : State) (v : Vector Byte 16) : (s.setRegs v).v = v := rfl
@[simp] theorem setRegs_pc (s : State) (v : Vector Byte 16) : (s.setRegs v).pc = s.pc := rfl
@[simp] theorem setRegs_idx (s : State) (v : Vector Byte 16) : (s.setRegs v).idx = s.idx := rfl
@[simp] theorem setRegs_stack (s : State) (v : Vector Byte 16) : (s.setRegs v).stack = s.stack := rfl
@[simp] theorem setRegs_sp (s : State) (v : Vector Byte 16) : (s.setRegs v).sp = s.sp := rfl
@[simp] theorem setRegs_dt (s : State) (v : Vector Byte 16) : (s.setRegs v).dt = s.dt := rfl
@[simp] theorem setRegs_st (s : State) (v : Vector Byte 16) : (s.setRegs v).st = s.st := rfl
@[simp] theorem setRegs_lastTimerTick (s : State) (v : Vector Byte 16) : (s.setRegs v).lastTimerTick = s.lastTimerTick := rfl
@[simp] theorem setRegs_mem (s : State) (v : Vector Byte 16) : (s.setRegs v).mem = s.mem := rfl
@[simp] theorem setRegs_runState (s : State) (v : Vector Byte 16) : (s.setRegs v).runState = s.runState := rfl
@[simp] theorem setRegs_faultKind (s : State) (v : Vector Byte 16) : (s.setRegs v).faultKind = s.faultKind := rfl
@[simp] theorem setRegs_faultOpcode (s : State) (v : Vector Byte 16) : (s.setRegs v).faultOpcode = s.faultOpcode := rfl
@[simp] theorem setRegs_faultAddr (s : State) (v : Vector Byte 16) : (s.setRegs v).faultAddr = s.faultAddr := rfl
@[simp] theorem setRegs_started (s : State) (v : Vector Byte 16) : (s.setRegs v).started = s.started := rfl
@[simp] theorem setRegs_config (s : State) (v : Vector Byte 16) : (s.setRegs v).config = s.config := rfl
@[simp] theorem setRegs_env (s : State) (v : Vector Byte 16) : (s.setRegs v).env = s.env := rfl
@[simp] theorem memRead_setRegs (s : State) (v : Vector Byte 16) (c : Nat) : memRead (s.setRegs v) c = memRead s c := rfl

/-! ### setPc -/

@[simp] theorem setPc_v (s : State) (w : Word16) : (s.setPc w).v = s.v := rfl
@[simp] theorem setPc_pc (s : State) (w : Word16) : (s.setPc w).pc = w := rfl
@[simp] theorem setPc_idx (s : State) (w : Word16) : (s.setPc w).idx = s.idx := rfl
@[simp] theorem setPc_stack (s : State) (w : Word16) : (s.setPc w).stack = s.stack := rfl
@[simp] theorem setPc_sp (s : State) (w : Word16) : (s.setPc w).sp = s.sp := rfl
@[simp] theorem setPc_dt (s : State) (w : Word16) : (s.setPc w).dt = s.dt := rfl
@[simp] theorem setPc_st (s : State) (w : Word16) : (s.setPc w).st = s.st := rfl
@[simp] theorem setPc_lastTimerTick (s : State) (w : Word16) : (s.setPc w).lastTimerTick = s.lastTimerTick := rfl
@[simp] theorem setPc_mem (s : State) (w : Word16) : (s.setPc w).mem = s.mem := rfl
@[simp] theorem setPc_runState (s : State) (w : Word16) : (s.setPc w).runState = s.runState := rfl
@[simp] theorem setPc_faultKind (s : State) (w : Word16) : (s.setPc w).faultKind = s.faultKind := rfl
@[simp] theorem setPc_faultOpcode (s : State) (w : Word16) : (s.setPc w).faultOpcode = s.faultOpcode := rfl
@[simp] theorem setPc_faultAddr (s : State) (w : Word16) : (s.setPc w).faultAddr = s.faultAddr := rfl
@[simp] theorem setPc_started (s : State) (w : Word16) : (s.setPc w).started = s.started := rfl
@[simp] theorem setPc_config (s : State) (w : Word16) : (s.setPc w).config = s.config := rfl
@[simp] theorem setPc_env (s : State) (w : Word16) : (s.setPc w).env = s.env := rfl
@[simp] theorem readV_setPc (s : State) (w : Word16) (q : Reg) : readV (s.setPc w) q = readV s q := rfl
@[simp] theorem memRead_setPc (s : State) (w : Word16) (c : Nat) : memRead (s.setPc w) c = memRead s c := rfl

/-! ### setIdx -/

@[simp] theorem setIdx_v (s : State) (w : Word16) : (s.setIdx w).v = s.v := rfl
@[simp] theorem setIdx_pc (s : State) (w : Word16) : (s.setIdx w).pc = s.pc := rfl
@[simp] theorem setIdx_idx (s : State) (w : Word16) : (s.setIdx w).idx = w := rfl
@[simp] theorem setIdx_stack (s : State) (w : Word16) : (s.setIdx w).stack = s.stack := rfl
@[simp] theorem setIdx_sp (s : State) (w : Word16) : (s.setIdx w).sp = s.sp := rfl
@[simp] theorem setIdx_dt (s : State) (w : Word16) : (s.setIdx w).dt = s.dt := rfl
@[simp] theorem setIdx_st (s : State) (w : Word16) : (s.setIdx w).st = s.st := rfl
@[simp] theorem setIdx_lastTimerTick (s : State) (w : Word16) : (s.setIdx w).lastTimerTick = s.lastTimerTick := rfl
@[simp] theorem setIdx_mem (s : State) (w : Word16) : (s.setIdx w).mem = s.mem := rfl
@[simp] theorem setIdx_runState (s : State) (w : Word16) : (s.setIdx w).runState = s.runState := rfl
@[simp] theorem setIdx_faultKind (s : State) (w : Word16) : (s.setIdx w).faultKind = s.faultKind := rfl
@[simp] theorem setIdx_faultOpcode (s : State) (w : Word16) : (s.setIdx w).faultOpcode = s.faultOpcode := rfl
@[simp] theorem setIdx_faultAddr (s : State) (w : Word16) : (s.setIdx w).faultAddr = s.faultAddr := rfl
@[simp] theorem setIdx_started (s : State) (w : Word16) : (s.setIdx w).started = s.started := rfl
@[simp] theorem setIdx_config (s : State) (w : Word16) : (s.setIdx w).config = s.config := rfl
@[simp] theorem setIdx_env (s : State) (w : Word16) : (s.setIdx w).env = s.env := rfl
@[simp] theorem readV_setIdx (s : State) (w : Word16) (q : Reg) : readV (s.setIdx w) q = readV s q := rfl
@[simp] theorem memRead_setIdx (s : State) (w : Word16) (c : Nat) : memRead (s.setIdx w) c = memRead s c := rfl

/-! ### setStackEntry -/

@[simp] theorem setStackEntry_v (s : State) (k : Fin 16) (w : Word16) : (s.setStackEntry k w).v = s.v := rfl
@[simp] theorem setStackEntry_pc (s : State) (k : Fin 16) (w : Word16) : (s.setStackEntry k w).pc = s.pc := rfl
@[simp] theorem setStackEntry_idx (s : State) (k : Fin 16) (w : Word16) : (s.setStackEntry k w).idx = s.idx := rfl
@[simp] theorem setStackEntry_stack (s : State) (k : Fin 16) (w : Word16) : (s.setStackEntry k w).stack = s.stack.set k.val w k.isLt := rfl
@[simp] theorem setStackEntry_sp (s : State) (k : Fin 16) (w : Word16) : (s.setStackEntry k w).sp = s.sp := rfl
@[simp] theorem setStackEntry_dt (s : State) (k : Fin 16) (w : Word16) : (s.setStackEntry k w).dt = s.dt := rfl
@[simp] theorem setStackEntry_st (s : State) (k : Fin 16) (w : Word16) : (s.setStackEntry k w).st = s.st := rfl
@[simp] theorem setStackEntry_lastTimerTick (s : State) (k : Fin 16) (w : Word16) : (s.setStackEntry k w).lastTimerTick = s.lastTimerTick := rfl
@[simp] theorem setStackEntry_mem (s : State) (k : Fin 16) (w : Word16) : (s.setStackEntry k w).mem = s.mem := rfl
@[simp] theorem setStackEntry_runState (s : State) (k : Fin 16) (w : Word16) : (s.setStackEntry k w).runState = s.runState := rfl
@[simp] theorem setStackEntry_faultKind (s : State) (k : Fin 16) (w : Word16) : (s.setStackEntry k w).faultKind = s.faultKind := rfl
@[simp] theorem setStackEntry_faultOpcode (s : State) (k : Fin 16) (w : Word16) : (s.setStackEntry k w).faultOpcode = s.faultOpcode := rfl
@[simp] theorem setStackEntry_faultAddr (s : State) (k : Fin 16) (w : Word16) : (s.setStackEntry k w).faultAddr = s.faultAddr := rfl
@[simp] theorem setStackEntry_started (s : State) (k : Fin 16) (w : Word16) : (s.setStackEntry k w).started = s.started := rfl
@[simp] theorem setStackEntry_config (s : State) (k : Fin 16) (w : Word16) : (s.setStackEntry k w).config = s.config := rfl
@[simp] theorem setStackEntry_env (s : State) (k : Fin 16) (w : Word16) : (s.setStackEntry k w).env = s.env := rfl
@[simp] theorem readV_setStackEntry (s : State) (k : Fin 16) (w : Word16) (q : Reg) : readV (s.setStackEntry k w) q = readV s q := rfl
@[simp] theorem memRead_setStackEntry (s : State) (k : Fin 16) (w : Word16) (c : Nat) : memRead (s.setStackEntry k w) c = memRead s c := rfl

/-! ### setSp -/

@[simp] theorem setSp_v (s : State) (n : Fin 17) : (s.setSp n).v = s.v := rfl
@[simp] theorem setSp_pc (s : State) (n : Fin 17) : (s.setSp n).pc = s.pc := rfl
@[simp] theorem setSp_idx (s : State) (n : Fin 17) : (s.setSp n).idx = s.idx := rfl
@[simp] theorem setSp_stack (s : State) (n : Fin 17) : (s.setSp n).stack = s.stack := rfl
@[simp] theorem setSp_sp (s : State) (n : Fin 17) : (s.setSp n).sp = n := rfl
@[simp] theorem setSp_dt (s : State) (n : Fin 17) : (s.setSp n).dt = s.dt := rfl
@[simp] theorem setSp_st (s : State) (n : Fin 17) : (s.setSp n).st = s.st := rfl
@[simp] theorem setSp_lastTimerTick (s : State) (n : Fin 17) : (s.setSp n).lastTimerTick = s.lastTimerTick := rfl
@[simp] theorem setSp_mem (s : State) (n : Fin 17) : (s.setSp n).mem = s.mem := rfl
@[simp] theorem setSp_runState (s : State) (n : Fin 17) : (s.setSp n).runState = s.runState := rfl
@[simp] theorem setSp_faultKind (s : State) (n : Fin 17) : (s.setSp n).faultKind = s.faultKind := rfl
@[simp] theorem setSp_faultOpcode (s : State) (n : Fin 17) : (s.setSp n).faultOpcode = s.faultOpcode := rfl
@[simp] theorem setSp_faultAddr (s : State) (n : Fin 17) : (s.setSp n).faultAddr = s.faultAddr := rfl
@[simp] theorem setSp_started (s : State) (n : Fin 17) : (s.setSp n).started = s.started := rfl
@[simp] theorem setSp_config (s : State) (n : Fin 17) : (s.setSp n).config = s.config := rfl
@[simp] theorem setSp_env (s : State) (n : Fin 17) : (s.setSp n).env = s.env := rfl
@[simp] theorem readV_setSp (s : State) (n : Fin 17) (q : Reg) : readV (s.setSp n) q = readV s q := rfl
@[simp] theorem memRead_setSp (s : State) (n : Fin 17) (c : Nat) : memRead (s.setSp n) c = memRead s c := rfl

/-! ### setDt -/

@[simp] theorem setDt_v (s : State) (b : Byte) : (s.setDt b).v = s.v := rfl
@[simp] theorem setDt_pc (s : State) (b : Byte) : (s.setDt b).pc = s.pc := rfl
@[simp] theorem setDt_idx (s : State) (b : Byte) : (s.setDt b).idx = s.idx := rfl
@[simp] theorem setDt_stack (s : State) (b : Byte) : (s.setDt b).stack = s.stack := rfl
@[simp] theorem setDt_sp (s : State) (b : Byte) : (s.setDt b).sp = s.sp := rfl
@[simp] theorem setDt_dt (s : State) (b : Byte) : (s.setDt b).dt = b := rfl
@[simp] theorem setDt_st (s : State) (b : Byte) : (s.setDt b).st = s.st := rfl
@[simp] theorem setDt_lastTimerTick (s : State) (b : Byte) : (s.setDt b).lastTimerTick = s.lastTimerTick := rfl
@[simp] theorem setDt_mem (s : State) (b : Byte) : (s.setDt b).mem = s.mem := rfl
@[simp] theorem setDt_runState (s : State) (b : Byte) : (s.setDt b).runState = s.runState := rfl
@[simp] theorem setDt_faultKind (s : State) (b : Byte) : (s.setDt b).faultKind = s.faultKind := rfl
@[simp] theorem setDt_faultOpcode (s : State) (b : Byte) : (s.setDt b).faultOpcode = s.faultOpcode := rfl
@[simp] theorem setDt_faultAddr (s : State) (b : Byte) : (s.setDt b).faultAddr = s.faultAddr := rfl
@[simp] theorem setDt_started (s : State) (b : Byte) : (s.setDt b).started = s.started := rfl
@[simp] theorem setDt_config (s : State) (b : Byte) : (s.setDt b).config = s.config := rfl
@[simp] theorem setDt_env (s : State) (b : Byte) : (s.setDt b).env = s.env := rfl
@[simp] theorem readV_setDt (s : State) (b : Byte) (q : Reg) : readV (s.setDt b) q = readV s q := rfl
@[simp] theorem memRead_setDt (s : State) (b : Byte) (c : Nat) : memRead (s.setDt b) c = memRead s c := rfl

/-! ### setSt -/

@[simp] theorem setSt_v (s : State) (b : Byte) : (s.setSt b).v = s.v := rfl
@[simp] theorem setSt_pc (s : State) (b : Byte) : (s.setSt b).pc = s.pc := rfl
@[simp] theorem setSt_idx (s : State) (b : Byte) : (s.setSt b).idx = s.idx := rfl
@[simp] theorem setSt_stack (s : State) (b : Byte) : (s.setSt b).stack = s.stack := rfl
@[simp] theorem setSt_sp (s : State) (b : Byte) : (s.setSt b).sp = s.sp := rfl
@[simp] theorem setSt_dt (s : State) (b : Byte) : (s.setSt b).dt = s.dt := rfl
@[simp] theorem setSt_st (s : State) (b : Byte) : (s.setSt b).st = b := rfl
@[simp] theorem setSt_lastTimerTick (s : State) (b : Byte) : (s.setSt b).lastTimerTick = s.lastTimerTick := rfl
@[simp] theorem setSt_mem (s : State) (b : Byte) : (s.setSt b).mem = s.mem := rfl
@[simp] theorem setSt_runState (s : State) (b : Byte) : (s.setSt b).runState = s.runState := rfl
@[simp] theorem setSt_faultKind (s : State) (b : Byte) : (s.setSt b).faultKind = s.faultKind := rfl
@[simp] theorem setSt_faultOpcode (s : State) (b : Byte) : (s.setSt b).faultOpcode = s.faultOpcode := rfl
@[simp] theorem setSt_faultAddr (s : State) (b : Byte) : (s.setSt b).faultAddr = s.faultAddr := rfl
@[simp] theorem setSt_started (s : State) (b : Byte) : (s.setSt b).started = s.started := rfl
@[simp] theorem setSt_config (s : State) (b : Byte) : (s.setSt b).config = s.config := rfl
@[simp] theorem setSt_env (s : State) (b : Byte) : (s.setSt b).env = s.env := rfl
@[simp] theorem readV_setSt (s : State) (b : Byte) (q : Reg) : readV (s.setSt b) q = readV s q := rfl
@[simp] theorem memRead_setSt (s : State) (b : Byte) (c : Nat) : memRead (s.setSt b) c = memRead s c := rfl

/-! ### setLastTimerTick -/

@[simp] theorem setLastTimerTick_v (s : State) (t : Nat) : (s.setLastTimerTick t).v = s.v := rfl
@[simp] theorem setLastTimerTick_pc (s : State) (t : Nat) : (s.setLastTimerTick t).pc = s.pc := rfl
@[simp] theorem setLastTimerTick_idx (s : State) (t : Nat) : (s.setLastTimerTick t).idx = s.idx := rfl
@[simp] theorem setLastTimerTick_stack (s : State) (t : Nat) : (s.setLastTimerTick t).stack = s.stack := rfl
@[simp] theorem setLastTimerTick_sp (s : State) (t : Nat) : (s.setLastTimerTick t).sp = s.sp := rfl
@[simp] theorem setLastTimerTick_dt (s : State) (t : Nat) : (s.setLastTimerTick t).dt = s.dt := rfl
@[simp] theorem setLastTimerTick_st (s : State) (t : Nat) : (s.setLastTimerTick t).st = s.st := rfl
@[simp] theorem setLastTimerTick_lastTimerTick (s : State) (t : Nat) : (s.setLastTimerTick t).lastTimerTick = t := rfl
@[simp] theorem setLastTimerTick_mem (s : State) (t : Nat) : (s.setLastTimerTick t).mem = s.mem := rfl
@[simp] theorem setLastTimerTick_runState (s : State) (t : Nat) : (s.setLastTimerTick t).runState = s.runState := rfl
@[simp] theorem setLastTimerTick_faultKind (s : State) (t : Nat) : (s.setLastTimerTick t).faultKind = s.faultKind := rfl
@[simp] theorem setLastTimerTick_faultOpcode (s : State) (t : Nat) : (s.setLastTimerTick t).faultOpcode = s.faultOpcode := rfl
@[simp] theorem setLastTimerTick_faultAddr (s : State) (t : Nat) : (s.setLastTimerTick t).faultAddr = s.faultAddr := rfl
@[simp] theorem setLastTimerTick_started (s : State) (t : Nat) : (s.setLastTimerTick t).started = s.started := rfl
@[simp] theorem setLastTimerTick_config (s : State) (t : Nat) : (s.setLastTimerTick t).config = s.config := rfl
@[simp] theorem setLastTimerTick_env (s : State) (t : Nat) : (s.setLastTimerTick t).env = s.env := rfl
@[simp] theorem readV_setLastTimerTick (s : State) (t : Nat) (q : Reg) : readV (s.setLastTimerTick t) q = readV s q := rfl
@[simp] theorem memRead_setLastTimerTick (s : State) (t : Nat) (c : Nat) : memRead (s.setLastTimerTick t) c = memRead s c := rfl

/-! ### setMem -/

@[simp] theorem setMem_v (s : State) (m : Memory) : (s.setMem m).v = s.v := rfl
@[simp] theorem setMem_pc (s : State) (m : Memory) : (s.setMem m).pc = s.pc := rfl
@[simp] theorem setMem_idx (s : State) (m : Memory) : (s.setMem m).idx = s.idx := rfl
@[simp] theorem setMem_stack (s : State) (m : Memory) : (s.setMem m).stack = s.stack := rfl
@[simp] theorem setMem_sp (s : State) (m : Memory) : (s.setMem m).sp = s.sp := rfl
@[simp] theorem setMem_dt (s : State) (m : Memory) : (s.setMem m).dt = s.dt := rfl
@[simp] theorem setMem_st (s : State) (m : Memory) : (s.setMem m).st = s.st := rfl
@[simp] theorem setMem_lastTimerTick (s : State) (m : Memory) : (s.setMem m).lastTimerTick = s.lastTimerTick := rfl
@[simp] theorem setMem_mem (s : State) (m : Memory) : (s.setMem m).mem = m := rfl
@[simp] theorem setMem_runState (s : State) (m : Memory) : (s.setMem m).runState = s.runState := rfl
@[simp] theorem setMem_faultKind (s : State) (m : Memory) : (s.setMem m).faultKind = s.faultKind := rfl
@[simp] theorem setMem_faultOpcode (s : State) (m : Memory) : (s.setMem m).faultOpcode = s.faultOpcode := rfl
@[simp] theorem setMem_faultAddr (s : State) (m : Memory) : (s.setMem m).faultAddr = s.faultAddr := rfl
@[simp] theorem setMem_started (s : State) (m : Memory) : (s.setMem m).started = s.started := rfl
@[simp] theorem setMem_config (s : State) (m : Memory) : (s.setMem m).config = s.config := rfl
@[simp] theorem setMem_env (s : State) (m : Memory) : (s.setMem m).env = s.env := rfl
@[simp] theorem readV_setMem (s : State) (m : Memory) (q : Reg) : readV (s.setMem m) q = readV s q := rfl

/-! ### setRunState -/

@[simp] theorem setRunState_v (s : State) (r : RunState) : (s.setRunState r).v = s.v := rfl
@[simp] theorem setRunState_pc (s : State) (r : RunState) : (s.setRunState r).pc = s.pc := rfl
@[simp] theorem setRunState_idx (s : State) (r : RunState) : (s.setRunState r).idx = s.idx := rfl
@[simp] theorem setRunState_stack (s : State) (r : RunState) : (s.setRunState r).stack = s.stack := rfl
@[simp] theorem setRunState_sp (s : State) (r : RunState) : (s.setRunState r).sp = s.sp := rfl
@[simp] theorem setRunState_dt (s : State) (r : RunState) : (s.setRunState r).dt = s.dt := rfl
@[simp] theorem setRunState_st (s : State) (r : RunState) : (s.setRunState r).st = s.st := rfl
@[simp] theorem setRunState_lastTimerTick (s : State) (r : RunState) : (s.setRunState r).lastTimerTick = s.lastTimerTick := rfl
@[simp] theorem setRunState_mem (s : State) (r : RunState) : (s.setRunState r).mem = s.mem := rfl
@[simp] theorem setRunState_runState (s : State) (r : RunState) : (s.setRunState r).runState = r := rfl
@[simp] theorem setRunState_faultKind (s : State) (r : RunState) : (s.setRunState r).faultKind = s.faultKind := rfl
@[simp] theorem setRunState_faultOpcode (s : State) (r : RunState) : (s.setRunState r).faultOpcode = s.faultOpcode := rfl
@[simp] theorem setRunState_faultAddr (s : State) (r : RunState) : (s.setRunState r).faultAddr = s.faultAddr := rfl
@[simp] theorem setRunState_started (s : State) (r : RunState) : (s.setRunState r).started = s.started := rfl
@[simp] theorem setRunState_config (s : State) (r : RunState) : (s.setRunState r).config = s.config := rfl
@[simp] theorem setRunState_env (s : State) (r : RunState) : (s.setRunState r).env = s.env := rfl
@[simp] theorem readV_setRunState (s : State) (r : RunState) (q : Reg) : readV (s.setRunState r) q = readV s q := rfl
@[simp] theorem memRead_setRunState (s : State) (r : RunState) (c : Nat) : memRead (s.setRunState r) c = memRead s c := rfl

/-! ### setFaultRegs -/

@[simp] theorem setFaultRegs_v (s : State) (k : FaultKind) (op : Opcode) (a : Word16) : (s.setFaultRegs k op a).v = s.v := rfl
@[simp] theorem setFaultRegs_pc (s : State) (k : FaultKind) (op : Opcode) (a : Word16) : (s.setFaultRegs k op a).pc = s.pc := rfl
@[simp] theorem setFaultRegs_idx (s : State) (k : FaultKind) (op : Opcode) (a : Word16) : (s.setFaultRegs k op a).idx = s.idx := rfl
@[simp] theorem setFaultRegs_stack (s : State) (k : FaultKind) (op : Opcode) (a : Word16) : (s.setFaultRegs k op a).stack = s.stack := rfl
@[simp] theorem setFaultRegs_sp (s : State) (k : FaultKind) (op : Opcode) (a : Word16) : (s.setFaultRegs k op a).sp = s.sp := rfl
@[simp] theorem setFaultRegs_dt (s : State) (k : FaultKind) (op : Opcode) (a : Word16) : (s.setFaultRegs k op a).dt = s.dt := rfl
@[simp] theorem setFaultRegs_st (s : State) (k : FaultKind) (op : Opcode) (a : Word16) : (s.setFaultRegs k op a).st = s.st := rfl
@[simp] theorem setFaultRegs_lastTimerTick (s : State) (k : FaultKind) (op : Opcode) (a : Word16) : (s.setFaultRegs k op a).lastTimerTick = s.lastTimerTick := rfl
@[simp] theorem setFaultRegs_mem (s : State) (k : FaultKind) (op : Opcode) (a : Word16) : (s.setFaultRegs k op a).mem = s.mem := rfl
@[simp] theorem setFaultRegs_runState (s : State) (k : FaultKind) (op : Opcode) (a : Word16) : (s.setFaultRegs k op a).runState = s.runState := rfl
@[simp] theorem setFaultRegs_faultKind (s : State) (k : FaultKind) (op : Opcode) (a : Word16) : (s.setFaultRegs k op a).faultKind = k := rfl
@[simp] theorem setFaultRegs_faultOpcode (s : State) (k : FaultKind) (op : Opcode) (a : Word16) : (s.setFaultRegs k op a).faultOpcode = op := rfl
@[simp] theorem setFaultRegs_faultAddr (s : State) (k : FaultKind) (op : Opcode) (a : Word16) : (s.setFaultRegs k op a).faultAddr = a := rfl
@[simp] theorem setFaultRegs_started (s : State) (k : FaultKind) (op : Opcode) (a : Word16) : (s.setFaultRegs k op a).started = s.started := rfl
@[simp] theorem setFaultRegs_config (s : State) (k : FaultKind) (op : Opcode) (a : Word16) : (s.setFaultRegs k op a).config = s.config := rfl
@[simp] theorem setFaultRegs_env (s : State) (k : FaultKind) (op : Opcode) (a : Word16) : (s.setFaultRegs k op a).env = s.env := rfl
@[simp] theorem readV_setFaultRegs (s : State) (k : FaultKind) (op : Opcode) (a : Word16) (q : Reg) : readV (s.setFaultRegs k op a) q = readV s q := rfl
@[simp] theorem memRead_setFaultRegs (s : State) (k : FaultKind) (op : Opcode) (a : Word16) (c : Nat) : memRead (s.setFaultRegs k op a) c = memRead s c := rfl

/-! ### setStarted -/

@[simp] theorem setStarted_v (s : State) (b : Bool) : (s.setStarted b).v = s.v := rfl
@[simp] theorem setStarted_pc (s : State) (b : Bool) : (s.setStarted b).pc = s.pc := rfl
@[simp] theorem setStarted_idx (s : State) (b : Bool) : (s.setStarted b).idx = s.idx := rfl
@[simp] theorem setStarted_stack (s : State) (b : Bool) : (s.setStarted b).stack = s.stack := rfl
@[simp] theorem setStarted_sp (s : State) (b : Bool) : (s.setStarted b).sp = s.sp := rfl
@[simp] theorem setStarted_dt (s : State) (b : Bool) : (s.setStarted b).dt = s.dt := rfl
@[simp] theorem setStarted_st (s : State) (b : Bool) : (s.setStarted b).st = s.st := rfl
@[simp] theorem setStarted_lastTimerTick (s : State) (b : Bool) : (s.setStarted b).lastTimerTick = s.lastTimerTick := rfl
@[simp] theorem setStarted_mem (s : State) (b : Bool) : (s.setStarted b).mem = s.mem := rfl
@[simp] theorem setStarted_runState (s : State) (b : Bool) : (s.setStarted b).runState = s.runState := rfl
@[simp] theorem setStarted_faultKind (s : State) (b : Bool) : (s.setStarted b).faultKind = s.faultKind := rfl
@[simp] theorem setStarted_faultOpcode (s : State) (b : Bool) : (s.setStarted b).faultOpcode = s.faultOpcode := rfl
@[simp] theorem setStarted_faultAddr (s : State) (b : Bool) : (s.setStarted b).faultAddr = s.faultAddr := rfl
@[simp] theorem setStarted_started (s : State) (b : Bool) : (s.setStarted b).started = b := rfl
@[simp] theorem setStarted_config (s : State) (b : Bool) : (s.setStarted b).config = s.config := rfl
@[simp] theorem setStarted_env (s : State) (b : Bool) : (s.setStarted b).env = s.env := rfl
@[simp] theorem readV_setStarted (s : State) (b : Bool) (q : Reg) : readV (s.setStarted b) q = readV s q := rfl
@[simp] theorem memRead_setStarted (s : State) (b : Bool) (c : Nat) : memRead (s.setStarted b) c = memRead s c := rfl

/-! ### setEnv -/

@[simp] theorem setEnv_v (s : State) (e : Env) : (s.setEnv e).v = s.v := rfl
@[simp] theorem setEnv_pc (s : State) (e : Env) : (s.setEnv e).pc = s.pc := rfl
@[simp] theorem setEnv_idx (s : State) (e : Env) : (s.setEnv e).idx = s.idx := rfl
@[simp] theorem setEnv_stack (s : State) (e : Env) : (s.setEnv e).stack = s.stack := rfl
@[simp] theorem setEnv_sp (s : State) (e : Env) : (s.setEnv e).sp = s.sp := rfl
@[simp] theorem setEnv_dt (s : State) (e : Env) : (s.setEnv e).dt = s.dt := rfl
@[simp] theorem setEnv_st (s : State) (e : Env) : (s.setEnv e).st = s.st := rfl
@[simp] theorem setEnv_lastTimerTick (s : State) (e : Env) : (s.setEnv e).lastTimerTick = s.lastTimerTick := rfl
@[simp] theorem setEnv_mem (s : State) (e : Env) : (s.setEnv e).mem = s.mem := rfl
@[simp] theorem setEnv_runState (s : State) (e : Env) : (s.setEnv e).runState = s.runState := rfl
@[simp] theorem setEnv_faultKind (s : State) (e : Env) : (s.setEnv e).faultKind = s.faultKind := rfl
@[simp] theorem setEnv_faultOpcode (s : State) (e : Env) : (s.setEnv e).faultOpcode = s.faultOpcode := rfl
@[simp] theorem setEnv_faultAddr (s : State) (e : Env) : (s.setEnv e).faultAddr = s.faultAddr := rfl
@[simp] theorem setEnv_started (s : State) (e : Env) : (s.setEnv e).started = s.started := rfl
@[simp] theorem setEnv_config (s : State) (e : Env) : (s.setEnv e).config = s.config := rfl
@[simp] theorem setEnv_env (s : State) (e : Env) : (s.setEnv e).env = e := rfl
@[simp] theorem readV_setEnv (s : State) (e : Env) (q : Reg) : readV (s.setEnv e) q = readV s q := rfl
@[simp] theorem memRead_setEnv (s : State) (e : Env) (c : Nat) : memRead (s.setEnv e) c = memRead s c := rfl

/-! ### setFb -/

@[simp] theorem setFb_v (s : State) (fb : Framebuffer) : (s.setFb fb).v = s.v := rfl
@[simp] theorem setFb_pc (s : State) (fb : Framebuffer) : (s.setFb fb).pc = s.pc := rfl
@[simp] theorem setFb_idx (s : State) (fb : Framebuffer) : (s.setFb fb).idx = s.idx := rfl
@[simp] theorem setFb_stack (s : State) (fb : Framebuffer) : (s.setFb fb).stack = s.stack := rfl
@[simp] theorem setFb_sp (s : State) (fb : Framebuffer) : (s.setFb fb).sp = s.sp := rfl
@[simp] theorem setFb_dt (s : State) (fb : Framebuffer) : (s.setFb fb).dt = s.dt := rfl
@[simp] theorem setFb_st (s : State) (fb : Framebuffer) : (s.setFb fb).st = s.st := rfl
@[simp] theorem setFb_lastTimerTick (s : State) (fb : Framebuffer) : (s.setFb fb).lastTimerTick = s.lastTimerTick := rfl
@[simp] theorem setFb_mem (s : State) (fb : Framebuffer) : (s.setFb fb).mem = s.mem := rfl
@[simp] theorem setFb_runState (s : State) (fb : Framebuffer) : (s.setFb fb).runState = s.runState := rfl
@[simp] theorem setFb_faultKind (s : State) (fb : Framebuffer) : (s.setFb fb).faultKind = s.faultKind := rfl
@[simp] theorem setFb_faultOpcode (s : State) (fb : Framebuffer) : (s.setFb fb).faultOpcode = s.faultOpcode := rfl
@[simp] theorem setFb_faultAddr (s : State) (fb : Framebuffer) : (s.setFb fb).faultAddr = s.faultAddr := rfl
@[simp] theorem setFb_started (s : State) (fb : Framebuffer) : (s.setFb fb).started = s.started := rfl
@[simp] theorem setFb_config (s : State) (fb : Framebuffer) : (s.setFb fb).config = s.config := rfl
@[simp] theorem setFb_env (s : State) (fb : Framebuffer) : (s.setFb fb).env = { s.env with fb := fb } := rfl
@[simp] theorem readV_setFb (s : State) (fb : Framebuffer) (q : Reg) : readV (s.setFb fb) q = readV s q := rfl
@[simp] theorem memRead_setFb (s : State) (fb : Framebuffer) (c : Nat) : memRead (s.setFb fb) c = memRead s c := rfl

/-! ### Registers and memory after their own updates -/

/-- The register written holds the byte, every other register what it held. -/
theorem readV_setV (s : State) (r : Reg) (b : Byte) (q : Reg) :
    readV (s.setV r b) q = if q = r then b else readV s q := by
  simp only [readV, setV_v, Vector.getElem_set, Fin.ext_iff]
  by_cases h : q.val = r.val
  · simp [h]
  · simp [h, Ne.symm h]

@[simp] theorem readV_setV_same (s : State) (r : Reg) (b : Byte) : readV (s.setV r b) r = b := by
  simp [readV_setV]

theorem readV_setV_ne (s : State) {r q : Reg} (b : Byte) (h : q ≠ r) : readV (s.setV r b) q = readV s q := by
  simp [readV_setV, h]

@[simp] theorem readV_setRegs (s : State) (v : Vector Byte 16) (q : Reg) : readV (s.setRegs v) q = v[q.val] := rfl

@[simp] theorem memRead_setMem (s : State) (m : Memory) (c : Nat) : memRead (s.setMem m) c = Memory.read s.config m c := rfl

end Sys2Proof.Machine
end

