-- ==== Sys2Proof/Laws/Ops.lean ====
section
/-! SUPPORT. What each shared operation does, said once: stores, program counter moves, fault entry, the range check, the
key test, results and flags, the timer check, the end of a tick. -/

namespace Sys2Proof.Machine

/-! ### Stores -/

/-- A byte after a store of a block: the block's byte inside it, the old byte outside. -/
theorem memRead_storeBytes (s : State) (a : Nat) (bs : List Byte) (c : Nat) :
    memRead (storeBytes s a bs) c = if h : a ≤ c ∧ c - a < bs.length then bs[c - a]'h.2 else memRead s c :=
  Memory.read_writeBytes s.mem a bs c

theorem storeBytes_keeps (s : State) (a : Nat) (bs : List Byte) : KeepsAllButMemory s (storeBytes s a bs) := by
  simp [storeBytes]

/-! ### The program counter -/

theorem advancePc_pc (s : State) : (advancePc s).pc = s.pc + 2#16 := rfl

theorem advancePc_keeps (s : State) : KeepsAllButPc s (advancePc s) := by simp [advancePc]

theorem rewindPc_keeps (s : State) : KeepsAllButPc s (rewindPc s) := by simp [rewindPc]

/-- Stepping back from the advanced program counter is where the instruction was fetched. -/
theorem advanced_pc_back (s : State) : (advancePc s).pc - 2#16 = s.pc := by simp [advancePc_pc]

/-- A skip adds one more instruction width exactly when its condition holds, and changes nothing else. -/
theorem skipIf_spec (c : Bool) (s : State) :
    (skipIf c s).pc = (if c = true then s.pc + 2#16 else s.pc) ∧ KeepsAllButPc s (skipIf c s) := by
  cases c <;> simp [skipIf, advancePc]

/-- A skip is a write of the program counter, to whatever it decides. -/
theorem skipIf_eq_setPc (c : Bool) (s : State) : skipIf c s = s.setPc (skipIf c s).pc := by cases c <;> rfl

/-- A move of the program counter by `setPc` changes nothing else. -/
theorem setPc_keeps (s : State) (w : Word16) : KeepsAllButPc s (s.setPc w) := by simp

/-! ### Fault entry -/

/-- Fault entry writes the fault registers and the run state, and nothing else (60_exceptions R283). -/
theorem raiseFault_isFaultEntry (k : FaultKind) (op : Opcode) (s : State) :
    IsFaultEntry k op s (raiseFault k op s) := by simp [raiseFault]

@[simp] theorem raiseFault_mem (k : FaultKind) (op : Opcode) (s : State) : (raiseFault k op s).mem = s.mem := rfl

@[simp] theorem raiseFault_env (k : FaultKind) (op : Opcode) (s : State) : (raiseFault k op s).env = s.env := rfl

@[simp] theorem raiseFault_runState (k : FaultKind) (op : Opcode) (s : State) :
    (raiseFault k op s).runState = .faulted := rfl

@[simp] theorem raiseFault_faultKind (k : FaultKind) (op : Opcode) (s : State) :
    (raiseFault k op s).faultKind = k := rfl

/-! ### The range check -/

theorem footprintInRange_iff (s : State) (len : Nat) :
    footprintInRange s len = true ↔ len = 0 ∨ s.idx.toNat + (len - 1) ≤ 4095 := by
  rw [footprintInRange, Bool.or_eq_true, decide_eq_true_eq, decide_eq_true_eq, effectiveAddress]

/-- Inside memory the effect, whole. -/
theorem withFootprint_inside {i : Instr} {len : Nat} {s : State} (e : State)
    (h : len = 0 ∨ s.idx.toNat + (len - 1) ≤ 4095) : withFootprint i len s e = .next e := by
  simp [withFootprint, (footprintInRange_iff s len).2 h]

/-- Outside memory the fault, with none of the effect. -/
theorem withFootprint_outside {i : Instr} {len : Nat} {s : State} (e : State)
    (h : 1 ≤ len ∧ 4095 < s.idx.toNat + (len - 1)) :
    withFootprint i len s e = .next (raiseFault .memoryOutOfRange (encode i) s) := by
  have : ¬ footprintInRange s len = true := by rw [footprintInRange_iff]; omega
  simp [withFootprint, this]

/-! ### Results and flags -/

theorem setV_plainResult (s : State) (x : Reg) (b : Byte) : PlainResult x b s (s.setV x b) := by
  refine ⟨by simp, fun r hr => readV_setV_ne s b hr, ?_⟩
  simp

/-- The result goes to the destination, the flag to VF last: with destination F the flag stays (10_state R25). -/
theorem writeResultAndFlag_spec (s : State) (x : Reg) (r : Byte) (f : Bool) :
    ResultAndFlag x r.toNat (f = true) s (writeResultAndFlag s x r f) := by
  refine ⟨fun h => by simp [writeResultAndFlag, h, flagByte], fun h => by simp [writeResultAndFlag, h, flagByte],
    fun hx => by simp [writeResultAndFlag, readV_setV_ne _ _ hx], fun q hq => ?_, by simp [writeResultAndFlag]⟩
  rw [not_or] at hq
  simp [writeResultAndFlag, readV_setV_ne _ _ hq.1, readV_setV_ne _ _ hq.2]

theorem sumByte_toNat (a b : Byte) : (sumByte a b).toNat = (a.toNat + b.toNat) % 256 := by simp [sumByte]

theorem differenceByte_toNat (m s : Byte) : (differenceByte m s).toNat = (m.toNat + 256 - s.toNat) % 256 := by
  have := m.isLt
  have := s.isLt
  simp only [differenceByte, BitVec.toNat_ofInt]
  omega

theorem shiftedRight_toNat (a : Byte) : (shiftedRight a).toNat = a.toNat / 2 := by
  simp [shiftedRight, Nat.shiftRight_eq_div_pow]

theorem shiftedLeft_toNat (a : Byte) : (shiftedLeft a).toNat = a.toNat * 2 % 256 := by
  simp [shiftedLeft, Nat.shiftLeft_eq]

theorem outRight_iff (a : Byte) : outRight a = true ↔ a.toNat % 2 = 1 := by
  simp [outRight, BitVec.getLsbD, Nat.testBit_zero]

theorem outLeft_iff (a : Byte) : outLeft a = true ↔ 128 ≤ a.toNat := by
  have := a.isLt
  simp only [outLeft, BitVec.getLsbD, Nat.testBit_eq_decide_div_mod_eq, decide_eq_true_eq]
  omega

/-! ### The key test -/

/-- A key number skips on the state asked for. -/
theorem keyTest_inside (i : Instr) {x k : Reg} (pressed : Bool) {s : State} (h : (readV s x).toNat = k.val) :
    keyTest i x pressed s = .next (skipIf (decide (keyPressed s.env k = pressed)) s) := by
  have hlt : (readV s x).toNat < 16 := h ▸ k.isLt
  have : (⟨(readV s x).toNat, hlt⟩ : Reg) = k := Fin.ext h
  simp [keyTest, hlt, this]

/-- Above 15 there is no query, only the fault. -/
theorem keyTest_outside (i : Instr) {x : Reg} (pressed : Bool) {s : State} (h : 15 < (readV s x).toNat) :
    keyTest i x pressed s = .next (raiseFault .keyIndexOutOfRange (encode i) s) := by
  simp [keyTest, show ¬ (readV s x).toNat < 16 by omega]

/-! ### The timer check and the end of a tick -/

theorem decrementTimer_toNat (t : Byte) : (decrementTimer t).toNat = t.toNat - 1 := by
  unfold decrementTimer
  split
  · rename_i h; simp [h]
  · rename_i h
    have : t.toNat ≠ 0 := fun h0 => h (BitVec.eq_of_toNat_eq h0)
    have := t.isLt
    rw [BitVec.toNat_sub]; simp; omega

theorem periodElapsed_iff (s : State) :
    periodElapsed s = true ↔
      (s.config.timerPeriod : Int) ≤ (s.env.now : Int) - (s.lastTimerTick : Int) := by
  simp only [periodElapsed, decide_eq_true_eq]; omega

/-- The timer check decrements both timers once and takes the time, or does nothing (49_cycle_controller R254). -/
theorem timerCheck_cases (s : State) :
    (periodElapsed s = true ∧
      timerCheck s = ((s.setDt (decrementTimer s.dt)).setSt (decrementTimer s.st)).setLastTimerTick s.env.now) ∨
    (periodElapsed s = false ∧ timerCheck s = s) := by
  unfold timerCheck; cases periodElapsed s <;> simp

/-- The timer check touches nothing but the timers and the time of the last decrement. -/
theorem timerCheck_keeps (s : State) :
    KeepsRegs s (timerCheck s) ∧ (timerCheck s).pc = s.pc ∧ (timerCheck s).idx = s.idx ∧
      KeepsCallStack s (timerCheck s) ∧ (timerCheck s).mem = s.mem ∧ KeepsRunAndFault s (timerCheck s) ∧
      (timerCheck s).env = s.env ∧ (timerCheck s).started = s.started ∧ (timerCheck s).config = s.config := by
  rcases timerCheck_cases s with ⟨_, h⟩ | ⟨_, h⟩ <;> simp [h]

theorem endTick_running {s : State} (h : s.runState = .running) :
    endTick s = ((timerCheck s).setStarted true).setEnv (s.env.redraw s.config) := by simp [endTick, h]

theorem endTick_halted {s : State} (h : s.runState ≠ .running) : endTick s = s := by simp [endTick, h]

/-- The end of a tick changes no register, no call stack, no memory, no pixel, no run state, no fault register and no
parameter. -/
theorem endTick_keeps (s : State) :
    (endTick s).v = s.v ∧ (endTick s).pc = s.pc ∧ (endTick s).idx = s.idx ∧ KeepsCallStack s (endTick s) ∧
      (endTick s).mem = s.mem ∧ KeepsRunAndFault s (endTick s) ∧ (endTick s).env.fb = s.env.fb ∧
      (endTick s).config = s.config := by
  unfold endTick
  split
  · rcases timerCheck_cases s with ⟨_, h⟩ | ⟨_, h⟩ <;> simp [h, Env.redraw]
  · simp

/-- Time as the environment gives it never decreases. -/
theorem redraw_now (c : Config) (e : Env) : e.now ≤ (e.redraw c).now := by
  simp only [Env.redraw, nextNow]
  split
  · rename_i h; exact h
  · exact le_refl _

/-- The draws keep the environment one of its machine. -/
theorem redraw_envInv {c : Config} {e : Env} (h : EnvInv c e) : EnvInv c (e.redraw c) := by
  refine ⟨h.1, ?_⟩
  simp only [Env.redraw, nextNow]
  split
  · exact Nat.mod_lt _ (Nat.two_pow_pos _)
  · exact h.2

/-- The environment at power-on is one of its machine. -/
theorem powerOn_envInv (c : Config) : EnvInv c (Env.powerOn c) :=
  ⟨Framebuffer.wf_ofFn c _, Nat.mod_lt _ (Nat.two_pow_pos _)⟩

end Sys2Proof.Machine
end

