-- ==== Sys2Proof/Laws/PerInstr.lean ====
section
/-! SUPPORT. Statements for all instructions, one lemma per constructor. RoundTrip: an instruction that is well formed is
what its own opcode decodes to. -/

namespace Sys2Proof.Laws.RoundTrip

/-- Decoding the instruction's encoding gives it back. -/
def Statement (i : Instr) : Prop := i.WellFormed → decode (encode i) = .ok i

theorem cls : Statement .cls := fun _ => by decide

theorem ret : Statement .ret := fun _ => by decide

theorem jp (nnn : Addr12) : Statement (.jp nnn) := fun _ => by
  simp [decode, encode, classify, groupField_formatA, nnnField_formatA]

theorem call (nnn : Addr12) : Statement (.call nnn) := fun _ => by
  simp [decode, encode, classify, groupField_formatA, nnnField_formatA]

theorem seImm (x : Reg) (kk : Byte) : Statement (.seImm x kk) := fun _ => by
  simp [decode, encode, classify, groupField_formatI, xField_formatI, kkField_formatI]

theorem sneImm (x : Reg) (kk : Byte) : Statement (.sneImm x kk) := fun _ => by
  simp [decode, encode, classify, groupField_formatI, xField_formatI, kkField_formatI]

theorem seReg (x y : Reg) : Statement (.seReg x y) := fun _ => by
  simp [decode, encode, classify, groupField_formatR, xField_formatR, yField_formatR, nField_formatR]

theorem ldImm (x : Reg) (kk : Byte) : Statement (.ldImm x kk) := fun _ => by
  simp [decode, encode, classify, groupField_formatI, xField_formatI, kkField_formatI]

theorem addImm (x : Reg) (kk : Byte) : Statement (.addImm x kk) := fun _ => by
  simp [decode, encode, classify, groupField_formatI, xField_formatI, kkField_formatI]

theorem ldReg (x y : Reg) : Statement (.ldReg x y) := fun _ => by
  simp [decode, encode, classify, groupField_formatR, xField_formatR, yField_formatR, nField_formatR]

theorem orReg (x y : Reg) : Statement (.orReg x y) := fun _ => by
  simp [decode, encode, classify, groupField_formatR, xField_formatR, yField_formatR, nField_formatR]

theorem andReg (x y : Reg) : Statement (.andReg x y) := fun _ => by
  simp [decode, encode, classify, groupField_formatR, xField_formatR, yField_formatR, nField_formatR]

theorem xorReg (x y : Reg) : Statement (.xorReg x y) := fun _ => by
  simp [decode, encode, classify, groupField_formatR, xField_formatR, yField_formatR, nField_formatR]

theorem addReg (x y : Reg) : Statement (.addReg x y) := fun _ => by
  simp [decode, encode, classify, groupField_formatR, xField_formatR, yField_formatR, nField_formatR]

theorem sub (x y : Reg) : Statement (.sub x y) := fun _ => by
  simp [decode, encode, classify, groupField_formatR, xField_formatR, yField_formatR, nField_formatR]

theorem shr (x y : Reg) : Statement (.shr x y) := fun _ => by
  simp [decode, encode, classify, groupField_formatR, xField_formatR, yField_formatR, nField_formatR]

theorem subn (x y : Reg) : Statement (.subn x y) := fun _ => by
  simp [decode, encode, classify, groupField_formatR, xField_formatR, yField_formatR, nField_formatR]

theorem shl (x y : Reg) : Statement (.shl x y) := fun _ => by
  simp [decode, encode, classify, groupField_formatR, xField_formatR, yField_formatR, nField_formatR]

theorem sneReg (x y : Reg) : Statement (.sneReg x y) := fun _ => by
  simp [decode, encode, classify, groupField_formatR, xField_formatR, yField_formatR, nField_formatR]

theorem ldI (nnn : Addr12) : Statement (.ldI nnn) := fun _ => by
  simp [decode, encode, classify, groupField_formatA, nnnField_formatA]

theorem jpI (nnn : Addr12) : Statement (.jpI nnn) := fun _ => by
  simp [decode, encode, classify, groupField_formatA, nnnField_formatA]

theorem rnd (x : Reg) (kk : Byte) : Statement (.rnd x kk) := fun _ => by
  simp [decode, encode, classify, groupField_formatI, xField_formatI, kkField_formatI]

theorem drw (x y : Reg) (n : Nat) : Statement (.drw x y n) := fun h => by
  have hn : n < 16 := by simpa [Instr.WellFormed, Instr.wellFormed] using h
  simp [decode, encode, classify, groupField_formatR, xField_formatR, yField_formatR, nField_formatR,
    Nat.mod_eq_of_lt hn]

theorem skp (x : Reg) : Statement (.skp x) := fun _ => by
  simp [decode, encode, classify, groupField_formatI, xField_formatI, kkField_formatI]

theorem sknp (x : Reg) : Statement (.sknp x) := fun _ => by
  simp [decode, encode, classify, groupField_formatI, xField_formatI, kkField_formatI]

theorem ldVxDt (x : Reg) : Statement (.ldVxDt x) := fun _ => by
  simp [decode, encode, classify, groupField_formatI, xField_formatI, kkField_formatI]

theorem ldVxK (x : Reg) : Statement (.ldVxK x) := fun _ => by
  simp [decode, encode, classify, groupField_formatI, xField_formatI, kkField_formatI]

theorem ldDtVx (x : Reg) : Statement (.ldDtVx x) := fun _ => by
  simp [decode, encode, classify, groupField_formatI, xField_formatI, kkField_formatI]

theorem ldStVx (x : Reg) : Statement (.ldStVx x) := fun _ => by
  simp [decode, encode, classify, groupField_formatI, xField_formatI, kkField_formatI]

theorem addI (x : Reg) : Statement (.addI x) := fun _ => by
  simp [decode, encode, classify, groupField_formatI, xField_formatI, kkField_formatI]

theorem ldF (x : Reg) : Statement (.ldF x) := fun _ => by
  simp [decode, encode, classify, groupField_formatI, xField_formatI, kkField_formatI]

theorem ldB (x : Reg) : Statement (.ldB x) := fun _ => by
  simp [decode, encode, classify, groupField_formatI, xField_formatI, kkField_formatI]

theorem stRegs (x : Reg) : Statement (.stRegs x) := fun _ => by
  simp [decode, encode, classify, groupField_formatI, xField_formatI, kkField_formatI]

theorem ldRegs (x : Reg) : Statement (.ldRegs x) := fun _ => by
  simp [decode, encode, classify, groupField_formatI, xField_formatI, kkField_formatI]

end Sys2Proof.Laws.RoundTrip
end

