-- ==== Sys2Proof/Laws/Step.lean ====
section
/-! SUPPORT. What one step can do, said once: the four cases of a tick, the two ways an instruction ends, and which
instructions write memory. -/

namespace Sys2Proof.Machine

/-! ### The tick -/

theorem step_of_not_running {s : State} (h : s.runState ≠ .running) : step s = .next s := by
  unfold step tickWith; split <;> simp_all

theorem step_of_quit {s : State} (h : s.runState = .running) (hq : s.env.quit = true) :
    step s = .next (s.setRunState .stopped) := by
  simp [step, tickWith, h, hq]

theorem step_of_invalid {s : State} (h : Ready s) (hd : classify (fetchOpcode s) = none) :
    step s = .next (raiseFault .invalidInstruction (fetchOpcode s) (advancePc s)) := by
  simp [step, tickWith, runInstruction, h.1, h.2, decode, hd]

theorem step_of_instr {s : State} {i : Instr} (h : Ready s) (hd : Fetches s i) :
    step s = afterExecute (exec i (advancePc s)) := by
  have hd' : decode (fetchOpcode s) = .ok i := hd
  simp [step, tickWith, runInstruction, h.1, h.2, hd']

/-! ### The execute step -/

/-- Every instruction either completes, leaving run state, fault registers, inputs, the model's bit and the time of the
last decrement alone, or takes a fault and nothing else. -/
theorem exec_cases {i : Instr} {s t : State} (h : exec i s = .next t) :
    (∃ k, k ≠ .noFault ∧ t = raiseFault k (encode i) s) ∨
      (KeepsControl s t ∧ t.lastTimerTick = s.lastTimerTick) := by
  have fp : ∀ (j : Instr) (len : Nat) (e : State), KeepsControl s e ∧ e.lastTimerTick = s.lastTimerTick →
      withFootprint j len s e = .next t → (∃ k, k ≠ FaultKind.noFault ∧ t = raiseFault k (encode j) s) ∨
        (KeepsControl s t ∧ t.lastTimerTick = s.lastTimerTick) := by
    intro j len e he hw
    unfold withFootprint at hw
    split at hw <;> cases hw
    · exact .inr he
    · exact .inl ⟨_, by decide, rfl⟩
  have kt : ∀ (j : Instr) (x : Reg) (p : Bool), keyTest j x p s = .next t →
      (∃ k, k ≠ FaultKind.noFault ∧ t = raiseFault k (encode j) s) ∨
        (KeepsControl s t ∧ t.lastTimerTick = s.lastTimerTick) := by
    intro j x p hk
    unfold keyTest at hk
    split at hk <;> cases hk
    · have := (skipIf_spec (decide (keyPressed s.env ⟨(readV s x).toNat, ‹_›⟩ = p)) s).2
      exact .inr ⟨this.2.2.2.2.2.2, this.2.2.2.1.2.2⟩
    · exact .inl ⟨_, by decide, rfl⟩
  have sk : ∀ c, (Host.Outcome.next (skipIf c s) : Host.Outcome State Fault Refusal) = .next t →
      KeepsControl s t ∧ t.lastTimerTick = s.lastTimerTick := by
    intro c hc
    cases hc
    have := (skipIf_spec c s).2
    exact ⟨this.2.2.2.2.2.2, this.2.2.2.1.2.2⟩
  cases i with
  | call nnn =>
    simp only [exec, execCall] at h
    split at h <;> cases h
    · right; simp [pushReturn]
    · exact .inl ⟨_, by decide, rfl⟩
  | ret =>
    simp only [exec, execRet] at h
    split at h <;> cases h
    · right; simp [popReturn]
    · exact .inl ⟨_, by decide, rfl⟩
  | drw x y n => exact fp _ _ _ (by simp [drawSprite]) h
  | ldB x => exact fp _ _ _ (by simp [storeBytes]) h
  | stRegs x => exact fp _ _ _ (by simp [storeBytes]) h
  | ldRegs x => exact fp _ _ _ (by simp) h
  | skp x => exact kt _ _ _ h
  | sknp x => exact kt _ _ _ h
  | seImm x kk => exact .inr (sk _ h)
  | sneImm x kk => exact .inr (sk _ h)
  | seReg x y => exact .inr (sk _ h)
  | sneReg x y => exact .inr (sk _ h)
  | ldVxK x =>
    right
    simp only [exec, execLdVxK] at h
    split at h <;> cases h <;> simp [rewindPc]
  | cls | jp | ldImm | addImm | ldReg | orReg | andReg | xorReg | addReg | sub | shr | subn | shl | ldI | jpI | rnd
  | ldVxDt | ldDtVx | ldStVx | addI | ldF =>
    right; cases h; simp [writeResultAndFlag]

/-- Memory after an instruction: a block store of LD_B or ST_REGS inside memory, or what it was. -/
theorem exec_mem_cases {i : Instr} {s t : State} (h : exec i s = .next t) :
    t.mem = s.mem ∨
      ∃ bs : List Byte, t.mem = Memory.writeBytes s.config s.mem s.idx.toNat bs ∧ s.idx.toNat + bs.length ≤ 4096 ∧
        ((∃ x, i = .ldB x ∧ bs.length = 3) ∨ (∃ x, i = .stRegs x ∧ bs.length = x.val + 1)) := by
  have fp : ∀ (j : Instr) (len : Nat) (e : State), withFootprint j len s e = .next t →
      (t = e ∧ (len = 0 ∨ s.idx.toNat + (len - 1) ≤ 4095)) ∨ t.mem = s.mem := by
    intro j len e hw
    unfold withFootprint at hw
    split at hw <;> cases hw
    · rename_i hr; exact .inl ⟨rfl, (footprintInRange_iff s len).1 hr⟩
    · exact .inr rfl
  have sk : ∀ c, (skipIf c s).mem = s.mem := fun c => by cases c <;> rfl
  cases i with
  | ldB x =>
    rcases fp _ _ _ h with ⟨rfl, hr⟩ | hm
    · exact .inr ⟨decimalDigits (readV s x), rfl, by simp [decimalDigits]; omega, .inl ⟨x, rfl, rfl⟩⟩
    · exact .inl hm
  | stRegs x =>
    have hl : (registerBlock s x).length = x.val + 1 := by simp [registerBlock]
    rcases fp _ _ _ h with ⟨rfl, hr⟩ | hm
    · exact .inr ⟨registerBlock s x, rfl, by omega, .inr ⟨x, rfl, hl⟩⟩
    · exact .inl hm
  | drw x y n =>
    rcases fp _ _ _ h with ⟨rfl, _⟩ | hm
    · exact .inl rfl
    · exact .inl hm
  | ldRegs x =>
    rcases fp _ _ _ h with ⟨rfl, _⟩ | hm
    · exact .inl rfl
    · exact .inl hm
  | call nnn => simp only [exec, execCall] at h; split at h <;> cases h <;> exact .inl rfl
  | ret => simp only [exec, execRet] at h; split at h <;> cases h <;> exact .inl rfl
  | skp x => simp only [exec, execSkp, keyTest] at h; split at h <;> cases h <;> simp [sk]
  | sknp x => simp only [exec, execSknp, keyTest] at h; split at h <;> cases h <;> simp [sk]
  | seImm x kk => cases h; exact .inl (sk _)
  | sneImm x kk => cases h; exact .inl (sk _)
  | seReg x y => cases h; exact .inl (sk _)
  | sneReg x y => cases h; exact .inl (sk _)
  | ldVxK x => simp only [exec, execLdVxK] at h; split at h <;> cases h <;> exact .inl rfl
  | cls | jp | ldImm | addImm | ldReg | orReg | andReg | xorReg | addReg | sub | shr | subn | shl | ldI | jpI | rnd
  | ldVxDt | ldDtVx | ldStVx | addI | ldF => cases h; exact .inl rfl

/-- The picture after an instruction: what it was, cleared, or with the calls of a sprite made on it. -/
theorem exec_fb_cases {i : Instr} {s t : State} (h : exec i s = .next t) :
    t.env.fb = s.env.fb ∨ (i = .cls ∧ t.env.fb = dispClear s.env.fb) ∨
      ∃ x y n, i = .drw x y n ∧ t.env.fb = (drawCalls s.env.fb false
        (spriteCalls s.config (readV s x).toNat (readV s y).toNat 0 (spriteRows s n))).1 := by
  have fp : ∀ (j : Instr) (len : Nat) (e : State), withFootprint j len s e = .next t →
      t = e ∨ t.env.fb = s.env.fb := by
    intro j len e hw
    unfold withFootprint at hw
    split at hw <;> cases hw
    · exact .inl rfl
    · exact .inr rfl
  have sk : ∀ c, (skipIf c s).env.fb = s.env.fb := fun c => by rw [skipIf_eq_setPc]; rfl
  cases i with
  | cls => cases h; exact .inr (.inl ⟨rfl, rfl⟩)
  | drw x y n =>
    rcases fp _ _ _ h with rfl | hm
    · exact .inr (.inr ⟨x, y, n, rfl, rfl⟩)
    · exact .inl hm
  | ldB x => rcases fp _ _ _ h with rfl | hm <;> [exact .inl rfl; exact .inl hm]
  | stRegs x => rcases fp _ _ _ h with rfl | hm <;> [exact .inl rfl; exact .inl hm]
  | ldRegs x => rcases fp _ _ _ h with rfl | hm <;> [exact .inl rfl; exact .inl hm]
  | call nnn => simp only [exec, execCall] at h; split at h <;> cases h <;> exact .inl rfl
  | ret => simp only [exec, execRet] at h; split at h <;> cases h <;> exact .inl rfl
  | skp x => simp only [exec, execSkp, keyTest] at h; split at h <;> cases h <;> simp [sk]
  | sknp x => simp only [exec, execSknp, keyTest] at h; split at h <;> cases h <;> simp [sk]
  | seImm x kk => cases h; exact .inl (sk _)
  | sneImm x kk => cases h; exact .inl (sk _)
  | seReg x y => cases h; exact .inl (sk _)
  | sneReg x y => cases h; exact .inl (sk _)
  | ldVxK x => simp only [exec, execLdVxK] at h; split at h <;> cases h <;> exact .inl rfl
  | jp | ldImm | addImm | ldReg | orReg | andReg | xorReg | addReg | sub | shr | subn | shl | ldI | jpI | rnd
  | ldVxDt | ldDtVx | ldStVx | addI | ldF => cases h; exact .inl rfl

/-! ### What one step can do -/

/-- Every execute step answers a next state. -/
theorem exec_next (i : Instr) (s : State) : ∃ t, exec i s = .next t := by
  have fp : ∀ (j : Instr) (len : Nat) (e : State), ∃ t, withFootprint j len s e = .next t := by
    intro j len e; unfold withFootprint; split <;> exact ⟨_, rfl⟩
  have kt : ∀ (j : Instr) (x : Reg) (p : Bool), ∃ t, keyTest j x p s = .next t := by
    intro j x p; unfold keyTest; split <;> exact ⟨_, rfl⟩
  cases i with
  | call nnn => simp only [exec, execCall]; split <;> exact ⟨_, rfl⟩
  | ret => simp only [exec, execRet]; split <;> exact ⟨_, rfl⟩
  | drw x y n => exact fp _ _ _
  | ldB x => exact fp _ _ _
  | stRegs x => exact fp _ _ _
  | ldRegs x => exact fp _ _ _
  | skp x => exact kt _ _ _
  | sknp x => exact kt _ _ _
  | cls | jp | seImm | sneImm | seReg | sneReg | ldImm | addImm | ldReg | orReg | andReg | xorReg | addReg | sub | shr
  | subn | shl | ldI | jpI | rnd | ldVxDt | ldVxK | ldDtVx | ldStVx | addI | ldF => exact ⟨_, rfl⟩

/-- The four ends of a tick that answers `t`: nothing, the stop, the fault of an invalid opcode, or an instruction. -/
theorem step_cases {s t : State} (h : step s = .next t) :
    (s.runState ≠ .running ∧ t = s) ∨
      (s.runState = .running ∧ s.env.quit = true ∧ t = s.setRunState .stopped) ∨
      (Ready s ∧ classify (fetchOpcode s) = none ∧
        t = raiseFault .invalidInstruction (fetchOpcode s) (advancePc s)) ∨
      (Ready s ∧ ∃ i u, Fetches s i ∧ exec i (advancePc s) = .next u ∧ t = endTick u) := by
  by_cases hr : s.runState = .running
  · by_cases hq : s.env.quit = true
    · rw [step_of_quit hr hq] at h; cases h; exact .inr (.inl ⟨hr, hq, rfl⟩)
    · have ready : Ready s := ⟨hr, by simpa using hq⟩
      cases hc : classify (fetchOpcode s) with
      | none => rw [step_of_invalid ready hc] at h; cases h; exact .inr (.inr (.inl ⟨ready, rfl, rfl⟩))
      | some i =>
        have hf : Fetches s i := decode_eq_ok.2 hc
        obtain ⟨u, hu⟩ := exec_next i (advancePc s)
        rw [step_of_instr ready hf, hu] at h; cases h
        exact .inr (.inr (.inr ⟨ready, i, u, hf, hu, rfl⟩))
  · rw [step_of_not_running hr] at h; cases h; exact .inl ⟨hr, rfl⟩

end Sys2Proof.Machine
end

