-- ==== Sys2Proof/Tests/Slice0.lean ====
section
/-! SUPPORT. Tests and witnesses. The expected results are the hand-computed vectors of spec/95_test_vectors.md, whose
ids the docstrings give, or the rules directly; every test is one tick or one operation on a small state. The witnesses
show that the hypotheses of the obligations can be met, each clause at a boundary value. -/

namespace Sys2Proof.Tests

open Sys2Proof Sys2Proof.Machine

/-! ### Well-formedness -/

/-- 30_encoding R92: the row count of DRW is a 4-bit field. -/
theorem test_wellFormed_refuses_drw_16 : ¬ (Instr.drw 0 0 16).WellFormed := by decide

theorem test_wellFormed_accepts_drw_15 : (Instr.drw 0 0 15).WellFormed := by decide

/-! ### Decoding: 95_test_vectors 2.1, one row per constructor -/

theorem test_decode_cls : decodeTableWord 16 0x00E0 = some (.cls) := by decide

theorem test_decode_ret : decodeTableWord 16 0x00EE = some (.ret) := by decide

theorem test_decode_jp : decodeTableWord 16 0x1234 = some (.jp 0x234#12) := by decide

theorem test_decode_call : decodeTableWord 16 0x2FFF = some (.call 0xFFF#12) := by decide

theorem test_decode_seImm : decodeTableWord 16 0x3A42 = some (.seImm 0xA 0x42#8) := by decide

theorem test_decode_sneImm : decodeTableWord 16 0x4B00 = some (.sneImm 0xB 0x00#8) := by decide

theorem test_decode_seReg : decodeTableWord 16 0x5120 = some (.seReg 1 2) := by decide

theorem test_decode_ldImm : decodeTableWord 16 0x6A2F = some (.ldImm 0xA 0x2F#8) := by decide

theorem test_decode_addImm : decodeTableWord 16 0x7F01 = some (.addImm 0xF 0x01#8) := by decide

theorem test_decode_ldReg : decodeTableWord 16 0x8AB0 = some (.ldReg 0xA 0xB) := by decide

theorem test_decode_orReg : decodeTableWord 16 0x8AB1 = some (.orReg 0xA 0xB) := by decide

theorem test_decode_andReg : decodeTableWord 16 0x8AB2 = some (.andReg 0xA 0xB) := by decide

theorem test_decode_xorReg : decodeTableWord 16 0x8AB3 = some (.xorReg 0xA 0xB) := by decide

theorem test_decode_addReg : decodeTableWord 16 0x8AB4 = some (.addReg 0xA 0xB) := by decide

theorem test_decode_sub : decodeTableWord 16 0x8AB5 = some (.sub 0xA 0xB) := by decide

theorem test_decode_shr : decodeTableWord 16 0x8AB6 = some (.shr 0xA 0xB) := by decide

theorem test_decode_subn : decodeTableWord 16 0x8AB7 = some (.subn 0xA 0xB) := by decide

theorem test_decode_shl : decodeTableWord 16 0x8ABE = some (.shl 0xA 0xB) := by decide

theorem test_decode_sneReg : decodeTableWord 16 0x9CD0 = some (.sneReg 0xC 0xD) := by decide

theorem test_decode_ldI : decodeTableWord 16 0xA2F0 = some (.ldI 0x2F0#12) := by decide

theorem test_decode_jpI : decodeTableWord 16 0xB100 = some (.jpI 0x100#12) := by decide

theorem test_decode_rnd : decodeTableWord 16 0xC70F = some (.rnd 7 0x0F#8) := by decide

theorem test_decode_drw : decodeTableWord 16 0xD12F = some (.drw 1 2 15) := by decide

theorem test_decode_skp : decodeTableWord 16 0xEF9E = some (.skp 0xF) := by decide

theorem test_decode_sknp : decodeTableWord 16 0xE0A1 = some (.sknp 0) := by decide

theorem test_decode_ldVxDt : decodeTableWord 16 0xF007 = some (.ldVxDt 0) := by decide

theorem test_decode_ldVxK : decodeTableWord 16 0xF50A = some (.ldVxK 5) := by decide

theorem test_decode_ldDtVx : decodeTableWord 16 0xF015 = some (.ldDtVx 0) := by decide

theorem test_decode_ldStVx : decodeTableWord 16 0xF018 = some (.ldStVx 0) := by decide

theorem test_decode_addI : decodeTableWord 16 0xF21E = some (.addI 2) := by decide

theorem test_decode_ldF : decodeTableWord 16 0xF329 = some (.ldF 3) := by decide

theorem test_decode_ldB : decodeTableWord 16 0xF033 = some (.ldB 0) := by decide

theorem test_decode_stRegs : decodeTableWord 16 0xFF55 = some (.stRegs 0xF) := by decide

theorem test_decode_ldRegs : decodeTableWord 16 0xFE65 = some (.ldRegs 0xE) := by decide

/-- The opcodes of 95 2.1 that are no instruction, two or more of each class of 30_encoding R97. -/
theorem test_decode_invalid :
    ∀ w ∈ [0x0000, 0x00E1, 0x00FE, 0x0123, 0x5121, 0x8AB8, 0x8ABD, 0x8ABF, 0x9CD1, 0xE09F, 0xE1A0, 0xF075, 0xF002],
      decodeTableWord 16 w = none := by decide

/-- Bytes come high byte first and the rest is handed back (20_memory R66, R67). -/
theorem test_decodeBytes_bigEndian :
    decodeBytes [0x12#8, 0x34#8, 0x56#8] = .ok (.jp 0x234#12, [0x56#8]) := by decide

/-- One byte is no opcode (20_memory R66). -/
theorem test_decodeBytes_short : decodeBytes [0x12#8] = .error (.invalidInstruction 0x0000#16) := by decide

/-! ### One tick: 95_test_vectors 2.2 to 2.8 -/

/-- Clear picture, no quit, time 0, no key, random byte 0xA7. -/
def env0 : Env :=
  { fb := [], quit := false, now := 0, rnd := 0xA7#8, keys := 0#16, keyPick := 0, draws := 0 }

/-- The reset state in that environment. -/
def start : State := { State.resetWith Config.spec env0 with env := env0 }

/-- The start state with the word placed at `pc`. -/
def at200 (w : Nat) : State := start.withFetchWord 16 w

/-- With some registers set. -/
def regs (l : List (Reg × Byte)) (s : State) : State := l.foldl (fun t p => t.setV p.1 p.2) s

/-- With `I` set. -/
def idx (a : Word16) (s : State) : State := s.setIdx a

/-- With bytes in memory. -/
def bytes (a : Nat) (bs : List Byte) (s : State) : State := storeBytes s a bs

/-- With an answer of the environment changed. -/
def env (f : Env → Env) (s : State) : State := s.setEnv (f s.env)

/-- On a machine whose display has another size. -/
def onMachine (width height : Nat) (s : State) : State :=
  { s with config := { s.config with displayWidth := width, displayHeight := height } }

/-- On a machine whose time has another unit, with the period that goes with it. -/
def withPeriod (units period : Nat) (s : State) : State :=
  { s with config := { s.config with timeUnitsPerSecond := units, timerPeriod := period } }

/-- The tick answers a next state of which `p` holds. -/
def tick (s : State) (p : State → Bool) : Bool :=
  match step s with
  | .next t => p t
  | .fault _ | .refused _ => false

theorem next_of_tick {s : State} {p : State → Bool} (h : tick s p = true) : ∃ t, step s = .next t ∧ p t = true := by
  unfold tick at h
  split at h
  · exact ⟨_, ‹_›, h⟩
  · cases h
  · cases h

/-- `VX` and `VF` after the tick. -/
def xAndF (x : Reg) (a f : Byte) (t : State) : Bool := readV t x == a && readV t regVF == f

/-- The fault registers after the tick, and `pc`. -/
def faulted (k : FaultKind) (op : Opcode) (a pc : Word16) (t : State) : Bool :=
  t.runState == .faulted && t.faultKind == k && t.faultOpcode == op && t.faultAddr == a && t.pc == pc

/-- V-F1. -/
theorem test_fetch_big_endian :
    tick (bytes 0x200 [0x12, 0x34] start) (fun t => t.pc == 0x0234) := by decide

/-- V-F2. -/
theorem test_fetch_last :
    tick (bytes 0xFFE [0x12, 0x00] (start.setPc 0x0FFE)) (fun t => t.pc == 0x0200) := by decide

/-- V-F3: one byte out of range makes the whole opcode zero. -/
theorem test_fetch_beyond :
    tick (bytes 0xFFF [0x12] (start.setPc 0x0FFF)) (fun t => faulted .invalidInstruction 0x0000 0x0FFF 0x1001 t) := by decide

/-- V-F4. -/
theorem test_fetch_odd :
    tick (bytes 0x201 [0x60, 0x05] (start.setPc 0x0201)) (fun t => readV t 0 == 0x05 && t.pc == 0x0203) := by decide

/-- V-F5. -/
theorem test_fetch_wraps :
    tick (start.setPc 0xFFFF) (fun t => faulted .invalidInstruction 0x0000 0xFFFF 0x0001 t) := by decide

/-- V-F8. -/
theorem test_invalid :
    tick (at200 0x0123) (fun t => faulted .invalidInstruction 0x0123 0x0200 0x0202 t) := by decide

/-- V-C1. -/
theorem test_jp :
    tick (at200 0x1ABC) (fun t => t.pc == 0x0ABC) := by decide

/-- V-C5. -/
theorem test_call_sixteenth :
    tick ((at200 0x2300).setSp 15) (fun t => t.pc == 0x0300 && t.sp == 16 && t.stack[15] == 0x0202) := by decide

/-- V-C6. -/
theorem test_call_overflow :
    tick ((at200 0x2300).setSp 16) (fun t => faulted .stackOverflow 0x2300 0x0200 0x0202 t && t.sp == 16) := by decide

/-- V-C8. -/
theorem test_ret :
    tick (((at200 0x00EE).setSp 16).setStackEntry 15 0x0123) (fun t => t.pc == 0x0123 && t.sp == 15) := by decide

/-- V-C9. -/
theorem test_ret_underflow :
    tick (at200 0x00EE) (fun t => faulted .stackUnderflow 0x00EE 0x0200 0x0202 t) := by decide

/-- V-C10. -/
theorem test_seImm :
    tick (regs [(10, 0x42)] (at200 0x3A42)) (fun t => t.pc == 0x0204) := by decide

/-- V-C11. -/
theorem test_seImm_not :
    tick (regs [(10, 0x41)] (at200 0x3A42)) (fun t => t.pc == 0x0202) := by decide

/-- V-C13. -/
theorem test_sneImm :
    tick (regs [(10, 0x41)] (at200 0x4A42)) (fun t => t.pc == 0x0204) := by decide

/-- V-C12. -/
theorem test_sneImm_not :
    tick (regs [(10, 0x42)] (at200 0x4A42)) (fun t => t.pc == 0x0202) := by decide

/-- V-C14. -/
theorem test_seReg :
    tick (regs [(1, 7), (2, 7)] (at200 0x5120)) (fun t => t.pc == 0x0204) := by decide

/-- V-C15. -/
theorem test_seReg_not :
    tick (regs [(1, 7), (2, 8)] (at200 0x5120)) (fun t => t.pc == 0x0202) := by decide

/-- V-C17. -/
theorem test_sneReg :
    tick (regs [(1, 7), (2, 8)] (at200 0x9120)) (fun t => t.pc == 0x0204) := by decide

/-- V-C18. -/
theorem test_sneReg_not :
    tick (regs [(1, 7), (2, 7)] (at200 0x9120)) (fun t => t.pc == 0x0202) := by decide

/-- V-C20: `I` is added, not `V0`. -/
theorem test_jpI :
    tick (idx 0x0250 (regs [(0, 0x55)] (at200 0xB100))) (fun t => t.pc == 0x0350) := by decide

/-- V-C21. -/
theorem test_jpI_wraps :
    tick (idx 0xFFFF (at200 0xB002)) (fun t => t.pc == 0x0001) := by decide

/-- V-I1. -/
theorem test_ldImm :
    tick (at200 0x6A2F) (fun t => readV t 10 == 0x2F && t.pc == 0x0202) := by decide

/-- V-I4. -/
theorem test_addImm_clears :
    tick (regs [(0, 5), (15, 1)] (at200 0x7001)) (fun t => xAndF 0 6 0 t) := by decide

/-- V-I7. -/
theorem test_addImm_to_VF :
    tick (regs [(15, 0xFF)] (at200 0x7F01)) (fun t => readV t 15 == 1) := by decide

/-- V-I10. -/
theorem test_ldI :
    tick (idx 0x1234 (at200 0xAFFF)) (fun t => t.idx == 0x0FFF) := by decide

/-- V-I12. -/
theorem test_addI_wraps :
    tick (idx 0xFFFF (regs [(0, 1), (15, 7)] (at200 0xF01E))) (fun t => t.idx == 0x0000 && readV t 15 == 7) := by decide

/-- V-I13. -/
theorem test_addI_leaves_memory :
    tick (idx 0x0FFF (regs [(0, 1), (15, 7)] (at200 0xF01E))) (fun t => t.idx == 0x1000 && readV t 15 == 7) := by decide

/-- V-I15: the upper nibble is ignored. -/
theorem test_ldF :
    tick (regs [(3, 0x1A)] (at200 0xF329)) (fun t => t.idx == 0x0032) := by decide

/-- V-I18. -/
theorem test_rnd :
    tick (at200 0xC00F) (fun t => readV t 0 == 0x07) := by decide

/-- V-I19. -/
theorem test_rnd_mask_0 :
    tick (env (fun e => { e with rnd := 0xFF }) (regs [(0, 0x55)] (at200 0xC000))) (fun t => readV t 0 == 0x00) := by decide

/-- V-A1. -/
theorem test_ldReg :
    tick (regs [(1, 0x11), (2, 0x22)] (at200 0x8120)) (fun t => readV t 1 == 0x22 && readV t 2 == 0x22) := by decide

/-- V-A3. -/
theorem test_or :
    tick (regs [(1, 0xF0), (2, 0x0F), (15, 1)] (at200 0x8121)) (fun t => xAndF 1 0xFF 1 t) := by decide

/-- V-A4. -/
theorem test_and :
    tick (regs [(1, 0xF0), (2, 0x3C), (15, 1)] (at200 0x8122)) (fun t => xAndF 1 0x30 1 t) := by decide

/-- V-A5. -/
theorem test_xor :
    tick (regs [(1, 0xFF), (2, 0x0F), (15, 1)] (at200 0x8123)) (fun t => xAndF 1 0xF0 1 t) := by decide

/-- V-A9. -/
theorem test_addReg_256 :
    tick (regs [(0, 0x80), (1, 0x80)] (at200 0x8014)) (fun t => xAndF 0 0 1 t) := by decide

/-- V-A12: the old `VF` is the addend. -/
theorem test_addReg_from_VF :
    tick (regs [(0, 3), (15, 4)] (at200 0x80F4)) (fun t => xAndF 0 7 0 t) := by decide

/-- V-A14. -/
theorem test_sub_borrow :
    tick (regs [(0, 5), (1, 10), (15, 1)] (at200 0x8015)) (fun t => xAndF 0 0xFB 0 t) := by decide

/-- V-A15. -/
theorem test_sub_equal :
    tick (regs [(0, 7), (1, 7)] (at200 0x8015)) (fun t => xAndF 0 0 1 t) := by decide

/-- V-A21. -/
theorem test_shr_ignores_y :
    tick (regs [(1, 4), (2, 0xFF), (15, 1)] (at200 0x8126)) (fun t => xAndF 1 2 0 t) := by decide

/-- V-A22. -/
theorem test_shr_VF :
    tick (regs [(15, 3)] (at200 0x8F06)) (fun t => readV t 15 == 1) := by decide

/-- V-A24. -/
theorem test_subn :
    tick (regs [(0, 5), (1, 10)] (at200 0x8017)) (fun t => xAndF 0 5 1 t) := by decide

/-- V-A25. -/
theorem test_subn_borrow :
    tick (regs [(0, 10), (1, 5), (15, 1)] (at200 0x8017)) (fun t => xAndF 0 0xFB 0 t) := by decide

/-- V-A27. -/
theorem test_shl :
    tick (regs [(1, 0xAA)] (at200 0x810E)) (fun t => xAndF 1 0x54 1 t) := by decide

/-- V-A31. -/
theorem test_shl_VF :
    tick (regs [(15, 1)] (at200 0x8F0E)) (fun t => readV t 15 == 0) := by decide

/-- V-M6. -/
theorem test_ldB_last :
    tick (idx 0xFFD (regs [(0, 0xEA)] (at200 0xF033))) (fun t => Memory.readBytes t.config t.mem 0xFFD 3 == [2, 3, 4]) := by decide

/-- V-M7: no byte is written. -/
theorem test_ldB_beyond :
    tick (idx 0xFFE (regs [(0, 0xEA)] (at200 0xF033))) (fun t => faulted .memoryOutOfRange 0xF033 0x0200 0x0202 t && memRead t 0xFFE == 0) := by decide

/-- V-M9: `V3` is not stored, `I` stays. -/
theorem test_stRegs :
    tick (idx 0x400 (regs [(0, 1), (1, 2), (2, 3), (3, 4)] (at200 0xF255))) (fun t => Memory.readBytes t.config t.mem 0x400 4 == [1, 2, 3, 0] && t.idx == 0x400) := by decide

/-- V-M12. -/
theorem test_stRegs_beyond :
    tick (idx 0xFF1 (regs [(0, 0x10)] (at200 0xFF55))) (fun t => faulted .memoryOutOfRange 0xFF55 0x0200 0x0202 t && memRead t 0xFF1 == 0) := by decide

/-- V-M16: the first font bytes, `VF` as an ordinary destination. -/
theorem test_ldRegs_font :
    tick (at200 0xFF65) (fun t => xAndF 4 0xF0 0xF0 t && readV t 6 == 0x60 && readV t 11 == 0x10) := by decide

/-- V-M18. -/
theorem test_ldRegs_beyond :
    tick (idx 0xFFF (regs [(0, 7)] (at200 0xF165))) (fun t => faulted .memoryOutOfRange 0xF165 0x0200 0x0202 t && readV t 0 == 7) := by decide

/-- V-D1. -/
theorem test_cls :
    tick (env (fun e => { e with fb := togglePixel e.fb 5 7 }) (at200 0x00E0)) (fun t => !pixel t.env.fb 5 7 && t.pc == 0x0202) := by decide

/-- V-D4: the sprite wraps on both axes. -/
theorem test_drw_wraps :
    tick (idx 0x300 (bytes 0x300 [0xFF, 0x81] (regs [(0, 0x3E), (1, 0x1F)] (at200 0xD012)))) (fun t => 
      [(62, 31), (63, 31), (0, 31), (5, 31), (62, 0), (5, 0)].all (fun c => pixel t.env.fb c.1 c.2) &&
        !pixel t.env.fb 6 31 && !pixel t.env.fb 63 0 && readV t 15 == 0) := by decide

/-- V-D8. -/
theorem test_drw_collides :
    tick (idx 0x300 (bytes 0x300 [0xC0] (env (fun e => { e with fb := togglePixel e.fb 1 0 }) (at200 0xD011)))) (fun t => pixel t.env.fb 0 0 && !pixel t.env.fb 1 0 && readV t 15 == 1) := by decide

/-- 44_display_keypad R191 on a display of 128 by 64: the row from 126 on wraps at 128. -/
theorem test_drw_other_size :
    tick (idx 0x300 (bytes 0x300 [0xFF] (regs [(0, 0x7E), (1, 0x1F)] (onMachine 128 64 (at200 0xD011))))) (fun t => pixel t.env.fb 126 31 && pixel t.env.fb 127 31 && pixel t.env.fb 0 31 && pixel t.env.fb 5 31 && readV t 15 == 0) := by decide

/-- V-K5. -/
theorem test_skp_15 :
    tick (env (fun e => { e with keys := 0x8000 }) (regs [(3, 15)] (at200 0xE39E))) (fun t => t.pc == 0x0204) := by decide

/-- V-K6. -/
theorem test_skp_16 :
    tick (env (fun e => { e with keys := 1 }) (regs [(3, 16)] (at200 0xE39E))) (fun t => faulted .keyIndexOutOfRange 0xE39E 0x0200 0x0202 t) := by decide

/-- V-K3. -/
theorem test_sknp_pressed :
    tick (env (fun e => { e with keys := 0x10 }) (regs [(3, 4)] (at200 0xE3A1))) (fun t => t.pc == 0x0202) := by decide

/-- V-K4. -/
theorem test_sknp_not_pressed :
    tick (regs [(3, 4)] (at200 0xE3A1)) (fun t => t.pc == 0x0204) := by decide

/-- V-K8. -/
theorem test_ldVxK_waits :
    tick (at200 0xF50A) (fun t => t.pc == 0x0200 && readV t 5 == 0) := by decide

/-- V-K10: the environment chose 7 of 3 and 7. -/
theorem test_ldVxK_chosen :
    tick (env (fun e => { e with keys := 0x88, keyPick := 7 }) (at200 0xF50A)) (fun t => readV t 5 == 7 && t.pc == 0x0202) := by decide

/-- V-T10: written, then decremented in the same tick. -/
theorem test_ldDtVx :
    tick (env (fun e => { e with now := 20000 }) (regs [(0, 10)] (at200 0xF015))) (fun t => t.dt == 9 && t.lastTimerTick == 20000) := by decide

/-- V-T11: reads the value before the decrement. -/
theorem test_ldVxDt :
    tick (env (fun e => { e with now := 20000 }) ((at200 0xF107).setDt 5)) (fun t => readV t 1 == 5 && t.dt == 4) := by decide

/-- V-T3, V-T4. -/
theorem test_ldStVx :
    tick (regs [(0, 2)] (at200 0xF018)) (fun t => t.st == 2 && audioEnable t) := by decide

/-- V-T5. -/
theorem test_timer_short :
    tick (env (fun e => { e with now := 16666 }) (((at200 0x1200).setDt 5).setSt 1)) (fun t => t.dt == 5 && t.st == 1 && t.lastTimerTick == 0) := by decide

/-- V-T6. -/
theorem test_timer_exact :
    tick (env (fun e => { e with now := 16667 }) (((at200 0x1200).setDt 5).setSt 1)) (fun t => t.dt == 4 && t.st == 0 && t.lastTimerTick == 16667) := by decide

/-- V-T7, V-T8: one decrement, never below 0. -/
theorem test_timer_backlog :
    tick (env (fun e => { e with now := 100000 }) ((at200 0x1200).setDt 5)) (fun t => t.dt == 4 && t.st == 0 && t.lastTimerTick == 100000) := by decide

/-- 49_cycle_controller R255 with 1000 units a second: the period is 17. -/
theorem test_timer_milliseconds :
    tick (env (fun e => { e with now := 17 }) (withPeriod 1000 17 ((at200 0x1200).setDt 5))) (fun t => t.dt == 4 && t.lastTimerTick == 17) := by decide

/-- V-T12. -/
theorem test_fault_no_timer :
    tick (env (fun e => { e with now := 50000 }) (start.setDt 5)) (fun t => t.runState == .faulted && t.dt == 5 && t.lastTimerTick == 0) := by decide

/-- V-T13. -/
theorem test_quit :
    tick (env (fun e => { e with quit := true, now := 50000 }) ((at200 0x6005).setDt 5)) (fun t => t.runState == .stopped && t.pc == 0x0200 && t.dt == 5) := by decide

/-! ### Reset and load: 95_test_vectors 2.9 -/

/-- V-R1: the sampled time, the first and the last font bytes, the first byte behind them. -/
theorem test_reset :
    (assertReset (env (fun e => { e with now := 777 }) start)).lastTimerTick = 777 ∧
      Memory.readBytes State.reset.config State.reset.mem 0x00 5 = [0xF0, 0x90, 0x90, 0x90, 0xF0] ∧
      Memory.readBytes State.reset.config State.reset.mem 0x4B 6 = [0xF0, 0x80, 0xF0, 0x80, 0x80, 0x00] := by decide

/-- 49_cycle_controller R255: 16667 is the nearest number to a sixtieth of a million, 17 to one of a thousand. -/
theorem test_config_wf :
    Config.spec.wf = true ∧ (withPeriod 1000 17 start).config.wf = true ∧
      (withPeriod 1000 16 start).config.wf = false ∧ (withPeriod 10 0 start).config.wf = false := by decide

/-- V-R2. -/
theorem test_loadImage :
    (match loadImage [0x12, 0x00] start with
      | .next t => memRead t 0x200 == 0x12 && memRead t 0x201 == 0x00 && t.pc == 0x0200
      | .fault _ | .refused _ => false) = true := by decide

/-- Writing back what reset left removes the entry: equal memories are equal data. -/
theorem test_memory_canonical :
    Memory.write Config.spec (Memory.write Config.spec [] 0x300 5) 0x300 0 = [] ∧ Memory.write Config.spec [] 0 0xF0 = [] := by decide

/-- The host's placed word is run by the very next step, also from the reset state itself. -/
theorem test_withFetchWord_runs : tick (State.reset.withFetchWord 16 0x6A2F) (fun t => t.started) := by decide

/-! ### Witnesses: the hypotheses of the obligations are met -/

theorem witness_DecodeAfterEncode : (Instr.drw 15 15 15).WellFormed ∧ (Instr.drw 0 0 0).WellFormed := by decide

theorem witness_EncodeAfterDecode : decode 0xD12F#16 = .ok (.drw 1 2 15) := by decide

theorem witness_OpcodeTableSelectsInstruction : 
    (⟨"DRW", 0xF000, 0xD000⟩ ∈ opcodeTable ∧ OpcodeRow.Matches ⟨"DRW", 0xF000, 0xD000⟩ 0xDFFF#16) ∧
      (∀ r ∈ opcodeTable, ¬ r.Matches 0xF0FF#16) := by decide

theorem witness_OpcodeTableRowsDisjoint : 
    (⟨"RET", 0xFFFF, 0x00EE⟩ : OpcodeRow) ∈ opcodeTable ∧ OpcodeRow.Matches ⟨"RET", 0xFFFF, 0x00EE⟩ 0x00EE#16 := by decide

theorem witness_OperandsAreOpcodeFields : decode 0xBFFF#16 = .ok (.jpI 0xFFF#12) := by decide

theorem witness_HaltedTickDoesNothing : 
    (start.setRunState .faulted).runState ≠ .running ∧ (start.setRunState .stopped).runState ≠ .running := by decide

theorem witness_QuitStopsTheCore : 
    (env (fun e => { e with quit := true }) start).runState = .running ∧
      (env (fun e => { e with quit := true }) start).env.quit = true := by decide

theorem witness_StepRunsDecodedInstruction : Ready (at200 0x00EE) ∧ Fetches (at200 0x00EE) .ret := by decide

theorem witness_FetchWordReadsBigEndian : 
    (start.setPc 4094).pc.toNat + 1 ≤ 4095 ∧ 4095 < (start.setPc 4095).pc.toNat + 1 := by decide

theorem witness_InvalidOpcodeFaults : 
    (Ready (at200 0x5121) ∧ decode (fetchOpcode (at200 0x5121)) = .error (.invalidInstruction 0x5121#16)) ∧
      Ready (start.setPc 4095) ∧ 4095 < (start.setPc 4095).pc.toNat + 1 := by decide

theorem witness_FaultsArePrecise : 
    Ready (at200 0x00EE) ∧ ∃ t, step (at200 0x00EE) = .next t ∧ (t.runState == .faulted) = true := ⟨by decide, next_of_tick (by decide)⟩

theorem witness_FaultCausesAreExactly : 
    Ready (at200 0xE39E) ∧ ∃ t, step (at200 0xE39E) = .next t ∧ (t.faultKind == .noFault) = true := ⟨by decide, next_of_tick (by decide)⟩

theorem witness_TimerCheckEndsTick : 
    Ready (at200 0x6005) ∧ Fetches (at200 0x6005) (.ldImm 0 5) ∧
      exec (.ldImm 0 5) (advancePc (at200 0x6005)) = .next ((advancePc (at200 0x6005)).setV 0 5) ∧
      ((advancePc (at200 0x6005)).setV 0 5).runState = .running := ⟨by decide, by decide, rfl, rfl⟩

/-- Both sides of the period. -/
theorem witness_TimerCheckEndsTick_elapsed : 
    (start.config.timerPeriod : Int) ≤ ((env (fun e => { e with now := 16667 }) start).env.now : Int) - 0 ∧
      ¬ (start.config.timerPeriod : Int) ≤ ((env (fun e => { e with now := 16666 }) start).env.now : Int) - 0 := by decide

theorem witness_TimersFallUnlessWritten_dt : 
    ∃ t, step (regs [(0, 1)] (at200 0xF015)) = .next t ∧ (t.dt != (regs [(0, 1)] (at200 0xF015)).dt) = true := next_of_tick (by decide)

theorem witness_TimersFallUnlessWritten_st : 
    ∃ t, step (env (fun e => { e with now := 16667 }) ((at200 0x1200).setSt 1)) = .next t ∧ (t.st != 1#8) = true := next_of_tick (by decide)

theorem witness_OnlyCallAndRetMoveTheStack : 
    (∃ t, step (at200 0x2300) = .next t ∧ (t.sp != (at200 0x2300).sp) = true) ∧
      ∃ t, step ((at200 0x00EE).setSp 1) = .next t ∧ (t.sp != ((at200 0x00EE).setSp 1).sp) = true := ⟨next_of_tick (by decide), next_of_tick (by decide)⟩

theorem witness_OnlyStoresChangeMemory : 
    ∃ t, step (idx 0xFFF (regs [(0, 1)] (at200 0xF055))) = .next t ∧
      (memRead t 0xFFF != memRead (idx 0xFFF (regs [(0, 1)] (at200 0xF055))) 0xFFF) = true := next_of_tick (by decide)

theorem witness_OnlyDestinationsChange : 
    ∃ t, step (at200 0x6F05) = .next t ∧ (readV t 15 != readV (at200 0x6F05) 15) = true := next_of_tick (by decide)

theorem witness_OnlyIndexInstructionsChangeIndex : ∃ t, step (at200 0xAFFF) = .next t ∧ (t.idx != (at200 0xAFFF).idx) = true := next_of_tick (by decide)

theorem witness_OnlyClsAndDrwChangeThePicture : 
    ∃ t, step (at200 0xD005) = .next t ∧ (pixel t.env.fb 0 0 != pixel (at200 0xD005).env.fb 0 0) = true := next_of_tick (by decide)

theorem witness_StepKeepsInvariant : Inv (at200 0x6005) ∧ ∃ t, step (at200 0x6005) = .next t ∧ t.started = true := ⟨by decide, next_of_tick (by decide)⟩

theorem witness_ResetMeetsInvariant : 
    Config.spec.wf = true ∧ (onMachine 1 1 start).config.wf = true ∧ EnvInv start.config start.env := by decide

theorem witness_LoadImageCopiesBytes : 
    (List.replicate 3584 0xAA#8).length ≤ 3584 ∧ start.started = false ∧ start.runState = .running ∧ Inv start := ⟨List.length_replicate.le, rfl, rfl, by decide⟩

theorem witness_LoadImageRefusedOutsideContract : 
    3584 < (List.replicate 3585 0xAA#8).length ∧ (List.replicate 3584 0xAA#8).length ≤ 3584 ∧
      (start.setStarted true).started = true ∧ (start.setRunState .stopped).runState ≠ .running := by
  refine ⟨?_, List.length_replicate.le, rfl, by decide⟩
  rw [List.length_replicate]; decide

theorem witness_FirstFetchIsTheImage : (List.replicate 3582 0xAA#8).length ≤ 3582 := List.length_replicate.le

theorem witness_StoreIsSeenByTheNextFetch : (idx 0xFF0 start).idx.toNat + (15 : Reg).val ≤ 4095 ∧ 14 + 1 ≤ (15 : Reg).val := by decide

theorem witness_CallPushesAndJumps : (start.setSp 15).sp.val < 16 ∧ (start.setSp 16).sp.val = 16 := by decide

theorem witness_RetPopsIntoPc : (start.setSp 16).sp.val = (15 : Fin 16).val + 1 ∧ (start.setSp 1).sp.val = (0 : Fin 16).val + 1 ∧ start.sp.val = 0 := by decide

theorem witness_CallThenRetRestores : (start.setSp 15).sp.val < 16 ∧ (14 : Fin 16).val < (start.setSp 15).sp.val := by decide

theorem witness_SkipOnRegisters : (1#4 : Nibble) ≠ 0x0#4 ∧ (15#4 : Nibble) ≠ 0x0#4 := by decide

/-- The carry at 256 and none at 255. -/
theorem witness_AddImmediateSetsCarry : 
    255 < (readV (regs [(0, 0xFF)] start) 0).toNat + (1#8).toNat ∧
      ¬ 255 < (readV (regs [(0, 0xFE)] start) 0).toNat + (1#8).toNat := by decide

theorem witness_SubtractSetsNoBorrow : 
    (readV (regs [(0, 7), (1, 7)] start) 0).toNat ≥ (readV (regs [(0, 7), (1, 7)] start) 1).toNat ∧
      ¬ (readV (regs [(0, 6), (1, 7)] start) 0).toNat ≥ (readV (regs [(0, 6), (1, 7)] start) 1).toNat := by decide

theorem witness_ShiftsSetShiftedOutBit : 
    (readV (regs [(0, 0x81)] start) 0).toNat % 2 = 1 ∧ 128 ≤ (readV (regs [(0, 0x80)] start) 0).toNat ∧
      ¬ 128 ≤ (readV (regs [(0, 0x7F)] start) 0).toNat := by decide

theorem witness_DecimalDigitsAreStored : (idx 4093 start).idx.toNat + 2 ≤ 4095 ∧ 4095 < (idx 4094 start).idx.toNat + 2 := by decide

theorem witness_RegisterBlockIsStored : 
    (idx 4080 start).idx.toNat + (15 : Reg).val ≤ 4095 ∧ (idx 4095 start).idx.toNat + (0 : Reg).val ≤ 4095 ∧
      4095 < (idx 4081 start).idx.toNat + (15 : Reg).val := by decide

theorem witness_RegisterBlockIsLoaded : 
    (idx 4080 start).idx.toNat + (15 : Reg).val ≤ 4095 ∧ 4095 < (idx 4096 start).idx.toNat + (0 : Reg).val := by decide

/-- No row with `I` beyond memory, 15 rows up to the last byte, and one byte further. -/
theorem witness_DrawTogglesLitPixels : 
    (0 < 16 ∧ ((0 : Nat) = 0 ∨ (idx 0xFFFF start).idx.toNat + 0 - 1 ≤ 4095)) ∧
      (15 < 16 ∧ ((15 : Nat) = 0 ∨ (idx 4081 start).idx.toNat + 15 - 1 ≤ 4095)) ∧
      1 ≤ 15 ∧ 4095 < (idx 4082 start).idx.toNat + 15 - 1 ∧
      8 ≤ start.config.displayWidth ∧ 15 ≤ start.config.displayHeight := by decide

/-- The pixel under the last bit of a row that wraps. -/
theorem witness_DrawTogglesLitPixels_lit : UnderLitBit (bytes 0x300 [0x01] (idx 0x300 start)) 63 31 1 6 31 := ⟨0, 7, by decide⟩

theorem witness_OneCallPerLitBit : Config.spec.wf = true ∧ (6, 31) ∈ spriteCalls Config.spec 63 31 0 [0x01#8] := by decide

/-- Three toggles of one pixel where the display is one pixel wide. -/
theorem witness_DrawTogglesLitPixels_wrapped : 
    litBitsOver (bytes 0x300 [0xC1] (idx 0x300 (onMachine 1 32 start))) 0 0 1 0 0 = 3 := by decide

theorem witness_SkipOnKey : 
    (readV (regs [(3, 15)] start) 3).toNat = (15 : Reg).val ∧ 15 < (readV (regs [(3, 16)] start) 3).toNat := by decide

theorem witness_BlockForKey : 
    getPressedKey (env (fun e => { e with keys := 0x8000 }) start).env = some 15 ∧ getPressedKey start.env = none := by decide

theorem witness_ReportedKeyIsAPressedKey : 
    keyPressed { env0 with keys := 0x88 } 3 = true ∧ getPressedKey { env0 with keys := 0x88, keyPick := 7 } = some 7 ∧
      getPressedKey { env0 with keys := 0x88, keyPick := 4 } = some 3 := by decide

theorem witness_OnlyRndReadsTheRandomByte : 
    (∀ x kk, Instr.cls ≠ .rnd x kk) ∧ exec .cls start = .next (start.setFb (dispClear start.env.fb)) := ⟨by simp, rfl⟩

theorem witness_OnlyKeyInstructionsReadTheKeys : 
    (∀ x, Instr.ldI 5 ≠ .skp x ∧ Instr.ldI 5 ≠ .sknp x ∧ Instr.ldI 5 ≠ .ldVxK x) ∧
      exec (.ldI 5) start = .next (start.setIdx (zextAddr 5)) := ⟨by simp, rfl⟩

theorem witness_PlacedWordIsFetched : decodeTableWord 16 0xFE65 = some (.ldRegs 14) := by decide

theorem witness_ConfigurationNeverChanges : 
    (∃ t, step (at200 0x6005) = .next t ∧ t.started = true) ∧
      loadImage [0x12] start = .next (storeBytes start Config.loadOffset.toNat [0x12]) := ⟨next_of_tick (by decide), rfl⟩

end Sys2Proof.Tests
end

section
/-! PROOF. The operands of a decoded instruction (30_encoding R92). -/

namespace Sys2Proof

open Sys2Proof.Machine

/-- The cases are the groups of `classify`, taken together where they have the format of R91 in common: each carries
the fields of its format, whose values as numbers are the laws of the fields. -/
theorem operandsAreFields_of_classify {op : Opcode} {i : Instr} (h : classify op = some i) :
    OperandsAreFields op i := by
  unfold classify at h
  split at h
  case h_1 => -- format E: no operands
    split at h <;> cases h <;> trivial
  case h_2 | h_3 | h_11 | h_12 => -- format A
    cases h; exact nnnField_toNat op
  case h_4 | h_5 | h_7 | h_8 | h_13 => -- format I
    cases h; exact ⟨xField_val op, kkField_toNat op⟩
  case h_6 | h_9 | h_10 => -- format R, valid for some selectors only
    split at h <;> cases h <;> exact ⟨xField_val op, yField_val op⟩
  case h_14 => -- format D
    cases h; exact ⟨xField_val op, yField_val op, nField_toNat op⟩
  case h_15 | h_16 => -- format S
    split at h <;> cases h <;> exact xField_val op
  case h_17 => cases h

/-- Settles O6, by the groups of the decoder. -/
theorem operandsAreOpcodeFields : Obligations.OperandsAreOpcodeFields := fun _ _ h =>
  operandsAreFields_of_classify (decode_eq_ok.1 h)

end Sys2Proof
end

section
/-! PROOF. JP and the four skips on registers (40_control_transfer R121, R124 to R127). -/

namespace Sys2Proof

open Sys2Proof.Machine Sys2Proof.Laws

/-! ### Jumps -/

theorem zextAddr_toNat (nnn : Addr12) : (zextAddr nnn).toNat = nnn.toNat :=
  BitVec.toNat_setWidth_of_le (by decide)

theorem exec_jp (nnn : Addr12) (s : State) : exec (.jp nnn) s = .next (s.setPc (zextAddr nnn)) := rfl

/-- Settles O30: the opcode is JP's encoding, and the execute step is one write of the program counter. -/
theorem jumpGoesToItsTarget : Obligations.JumpGoesToItsTarget := fun nnn s =>
  ⟨RoundTrip.jp nnn rfl, _, exec_jp nnn s, zextAddr_toNat nnn, setPc_keeps s _⟩

/-! ### Skips -/

/-- The program counter after a skip, as a number: the extra instruction width is added modulo 65536. -/
theorem skipIf_pc_toNat (c : Bool) (s : State) :
    (skipIf c s).pc.toNat = if c = true then (s.pc.toNat + 2) % 65536 else s.pc.toNat := by
  rw [(skipIf_spec c s).1]
  split
  · exact BitVec.toNat_add s.pc 2#16
  · rfl

/-- An instruction whose execute step is a skip on a test `c` skips exactly when `p`, which `c` decides, and changes
nothing but the program counter. -/
theorem exec_of_skipIf {i : Instr} {s : State} {c : Bool} {p : Prop} [Decidable p]
    (hexec : exec i s = .next (skipIf c s)) (hc : c = true ↔ p) :
    ∃ t, exec i s = .next t ∧ t.pc.toNat = (if p then (s.pc.toNat + 2) % 65536 else s.pc.toNat) ∧
      KeepsAllButPc s t := by
  have hpc := skipIf_pc_toNat c s
  simp only [hc] at hpc
  exact ⟨_, hexec, hpc, (skipIf_spec c s).2⟩

/-- The model's test for equal bytes is the comparison of their unsigned values. -/
theorem decide_byte_eq_iff (a b : Byte) : decide (a = b) = true ↔ a.toNat = b.toNat := by
  rw [decide_eq_true_iff, BitVec.toNat_inj]

theorem decide_byte_ne_iff (a b : Byte) : decide (a ≠ b) = true ↔ a.toNat ≠ b.toNat := by
  rw [decide_eq_true_iff, ne_eq, ne_eq, BitVec.toNat_inj]

theorem exec_seImm (x : Reg) (kk : Byte) (s : State) :
    exec (.seImm x kk) s = .next (skipIf (decide (readV s x = kk)) s) := rfl

theorem exec_sneImm (x : Reg) (kk : Byte) (s : State) :
    exec (.sneImm x kk) s = .next (skipIf (decide (readV s x ≠ kk)) s) := rfl

theorem exec_seReg (x y : Reg) (s : State) :
    exec (.seReg x y) s = .next (skipIf (decide (readV s x = readV s y)) s) := rfl

theorem exec_sneReg (x y : Reg) (s : State) :
    exec (.sneReg x y) s = .next (skipIf (decide (readV s x ≠ readV s y)) s) := rfl

/-- Settles O35: both opcodes are encodings, and both execute steps are a skip on a comparison of bytes. -/
theorem skipOnImmediate : Obligations.SkipOnImmediate := fun x kk s =>
  ⟨RoundTrip.seImm x kk rfl, RoundTrip.sneImm x kk rfl,
    exec_of_skipIf (exec_seImm x kk s) (decide_byte_eq_iff _ _),
    exec_of_skipIf (exec_sneImm x kk s) (decide_byte_ne_iff _ _)⟩

/-- Groups 5 and 9 have no instruction with a nonzero low nibble (decision D10). -/
theorem classify_regSkip_of_low_ne {g n : Nibble} (hg : g = 0x5#4 ∨ g = 0x9#4) (hn : n ≠ 0x0#4) (x y : Reg) :
    classify (formatR g x y n) = none := by
  obtain rfl | rfl := hg <;> simp [classify, groupField_formatR, nField_formatR, hn]

/-- An opcode that stands for no instruction decodes to none. -/
theorem decode_ne_ok_of_classify_eq_none {op : Opcode} (h : classify op = none) (i : Instr) : decode op ≠ .ok i := by
  rw [ne_eq, decode_eq_ok, h]
  exact (Option.some_ne_none i).symm

/-- Settles O36: the opcodes with low nibble 0 are encodings, the decoder refuses every other low nibble, and both
execute steps are a skip on a comparison of bytes. -/
theorem skipOnRegisters : Obligations.SkipOnRegisters := fun x y s =>
  ⟨RoundTrip.seReg x y rfl, RoundTrip.sneReg x y rfl,
    fun _ hn i =>
      ⟨decode_ne_ok_of_classify_eq_none (classify_regSkip_of_low_ne (.inl rfl) hn x y) i,
        decode_ne_ok_of_classify_eq_none (classify_regSkip_of_low_ne (.inr rfl) hn x y) i⟩,
    exec_of_skipIf (exec_seReg x y s) (decide_byte_eq_iff _ _),
    exec_of_skipIf (exec_sneReg x y s) (decide_byte_ne_iff _ _)⟩

end Sys2Proof
end

section
/-! PROOF. The plain loads of a register and the writes of the index register (41_immediate_index_random R140, R142,
R143; 42_alu R161). -/

namespace Sys2Proof

open Sys2Proof.Machine Sys2Proof.Laws

/-! ### Loads of a register -/

theorem exec_ldImm (x : Reg) (kk : Byte) (s : State) : exec (.ldImm x kk) s = .next (s.setV x kk) := rfl

theorem exec_ldReg (x y : Reg) (s : State) : exec (.ldReg x y) s = .next (s.setV x (readV s y)) := rfl

/-- Settles O37: both opcodes are encodings, and both execute steps are one write of the destination. -/
theorem loadAndCopy : Obligations.LoadAndCopy := fun x y kk s =>
  ⟨RoundTrip.ldImm x kk rfl, RoundTrip.ldReg x y rfl,
    ⟨_, exec_ldImm x kk s, setV_plainResult s x kk⟩,
    ⟨_, exec_ldReg x y s, setV_plainResult s x (readV s y)⟩⟩

/-! ### Writes of the index register -/

/-- A write of the index register by `setIdx` changes nothing else. -/
theorem setIdx_keeps (s : State) (w : Word16) : KeepsAllButIdx s (s.setIdx w) := by simp

theorem zextByte_toNat (b : Byte) : (zextByte b).toNat = b.toNat :=
  BitVec.toNat_setWidth_of_le (by decide)

/-- A byte is added to a 16-bit word as a number, modulo 65536. -/
theorem add_zextByte_toNat (w : Word16) (b : Byte) : (w + zextByte b).toNat = (w.toNat + b.toNat) % 65536 := by
  rw [BitVec.toNat_add, zextByte_toNat]

theorem exec_ldI (nnn : Addr12) (s : State) : exec (.ldI nnn) s = .next (s.setIdx (zextAddr nnn)) := rfl

theorem exec_addI (x : Reg) (s : State) :
    exec (.addI x) s = .next (s.setIdx (s.idx + zextByte (readV s x))) := rfl

/-- Settles O44: both opcodes are encodings, and both execute steps are one write of the index register, with the sum
taken modulo 65536. -/
theorem indexRegisterWrites : Obligations.IndexRegisterWrites := fun x nnn s =>
  ⟨RoundTrip.ldI nnn rfl, RoundTrip.addI x rfl,
    ⟨_, exec_ldI nnn s, zextAddr_toNat nnn, setIdx_keeps s _⟩,
    ⟨_, exec_addI x s, add_zextByte_toNat s.idx (readV s x), setIdx_keeps s _⟩⟩

end Sys2Proof
end

section
/-! PROOF. The bitwise and the arithmetic instructions of the ALU on two registers (42_alu R162 to R166, R168). -/

namespace Sys2Proof

open Sys2Proof.Machine Sys2Proof.Laws

/-! ### OR, AND, XOR -/

theorem exec_orReg (x y : Reg) (s : State) :
    exec (.orReg x y) s = .next (s.setV x (readV s x ||| readV s y)) := rfl

theorem exec_andReg (x y : Reg) (s : State) :
    exec (.andReg x y) s = .next (s.setV x (readV s x &&& readV s y)) := rfl

theorem exec_xorReg (x y : Reg) (s : State) :
    exec (.xorReg x y) s = .next (s.setV x (readV s x ^^^ readV s y)) := rfl

/-- Settles O38: the three opcodes are encodings, and each execute step is one write of the destination, so VF changes
only as the destination. -/
theorem bitwiseOperations : Obligations.BitwiseOperations := fun x y s =>
  ⟨RoundTrip.orReg x y rfl, RoundTrip.andReg x y rfl, RoundTrip.xorReg x y rfl,
    ⟨_, exec_orReg x y s, setV_plainResult s x _⟩,
    ⟨_, exec_andReg x y s, setV_plainResult s x _⟩,
    ⟨_, exec_xorReg x y s, setV_plainResult s x _⟩⟩

/-! ### Results with a flag -/

/-- An instruction whose execute step writes a byte and then a flag has the outcome of a flag-defining instruction: the
byte as the number `n`, and the flag set exactly when `p`, which it decides. -/
theorem exec_of_writeResultAndFlag {i : Instr} {s : State} {x : Reg} {b : Byte} {f : Bool} {n : Nat} {p : Prop}
    (hexec : exec i s = .next (writeResultAndFlag s x b f)) (hb : b.toNat = n) (hf : f = true ↔ p) :
    ∃ t, exec i s = .next t ∧ ResultAndFlag x n p s t := by
  obtain ⟨hset, hclear, hresult, hframe⟩ := writeResultAndFlag_spec s x b f
  exact ⟨_, hexec, fun hp => hset (hf.2 hp), fun hp => hclear (mt hf.1 hp), fun hx => (hresult hx).trans hb, hframe⟩

theorem carryOut_iff (a b : Byte) : carryOut a b = true ↔ 255 < a.toNat + b.toNat := decide_eq_true_iff

theorem noBorrow_iff (m s : Byte) : noBorrow m s = true ↔ m.toNat ≥ s.toNat := decide_eq_true_iff

/-! ### ADD_REG, SUB, SUBN -/

theorem exec_addReg (x y : Reg) (s : State) :
    exec (.addReg x y) s =
      .next (writeResultAndFlag s x (sumByte (readV s x) (readV s y)) (carryOut (readV s x) (readV s y))) := rfl

theorem exec_sub (x y : Reg) (s : State) :
    exec (.sub x y) s =
      .next (writeResultAndFlag s x (differenceByte (readV s x) (readV s y)) (noBorrow (readV s x) (readV s y))) := rfl

theorem exec_subn (x y : Reg) (s : State) :
    exec (.subn x y) s =
      .next (writeResultAndFlag s x (differenceByte (readV s y) (readV s x)) (noBorrow (readV s y) (readV s x))) := rfl

/-- Settles O40: the opcode is ADD_REG's encoding, and the execute step writes the sum, then the carry. -/
theorem addRegistersSetsCarry : Obligations.AddRegistersSetsCarry := fun x y s =>
  ⟨RoundTrip.addReg x y rfl,
    exec_of_writeResultAndFlag (exec_addReg x y s) (sumByte_toNat _ _) (carryOut_iff _ _)⟩

/-- Settles O41: both opcodes are encodings, and both execute steps write the difference, then whether no borrow
occurred; SUBN has the operands of SUB exchanged. -/
theorem subtractSetsNoBorrow : Obligations.SubtractSetsNoBorrow := fun x y s =>
  ⟨RoundTrip.sub x y rfl, RoundTrip.subn x y rfl,
    exec_of_writeResultAndFlag (exec_sub x y s) (differenceByte_toNat _ _) (noBorrow_iff _ _),
    exec_of_writeResultAndFlag (exec_subn x y s) (differenceByte_toNat _ _) (noBorrow_iff _ _)⟩

end Sys2Proof
end

section
/-! PROOF. CLS (44_display_keypad R190). -/

namespace Sys2Proof

open Sys2Proof.Machine Sys2Proof.Laws

/-- A new picture by `setFb` changes nothing but the framebuffer. -/
theorem setFb_keeps (s : State) (fb : Framebuffer) :
    KeepsRegs s (s.setFb fb) ∧ (s.setFb fb).pc = s.pc ∧ (s.setFb fb).idx = s.idx ∧ KeepsCallStack s (s.setFb fb) ∧
      KeepsTimers s (s.setFb fb) ∧ KeepsMemory s (s.setFb fb) ∧ KeepsControl s (s.setFb fb) := by simp

theorem exec_cls (s : State) : exec .cls s = .next (s.setFb (dispClear s.env.fb)) := rfl

/-- Settles O49: the opcode is CLS's encoding, and the execute step is one write of the framebuffer, with the cleared
picture. -/
theorem clearUnsetsEveryPixel : Obligations.ClearUnsetsEveryPixel := fun s =>
  ⟨RoundTrip.cls rfl, _, exec_cls s, pixel_dispClear s.env.fb, setFb_keeps s _⟩

end Sys2Proof
end

section
/-! PROOF. The accesses to the timers (45_timers R210, R211, R212). -/

namespace Sys2Proof

open Sys2Proof.Machine Sys2Proof.Laws

/-- Everything but the timers and the time of the last decrement. -/
@[simp] abbrev KeepsAllButTimers (s t : State) : Prop :=
  KeepsRegs s t ∧ t.pc = s.pc ∧ t.idx = s.idx ∧ KeepsCallStack s t ∧ KeepsMemory s t ∧ KeepsDisplay s t ∧
    KeepsControl s t

theorem setDt_keeps (s : State) (b : Byte) : KeepsAllButTimers s (s.setDt b) := by simp

theorem setSt_keeps (s : State) (b : Byte) : KeepsAllButTimers s (s.setSt b) := by simp

/-- The audio output is on exactly while the sound timer is nonzero (47_interfaces R233). -/
theorem audioEnable_iff (s : State) : audioEnable s = true ↔ s.st ≠ 0#8 := decide_eq_true_iff

theorem exec_ldVxDt (x : Reg) (s : State) : exec (.ldVxDt x) s = .next (s.setV x s.dt) := rfl

theorem exec_ldDtVx (x : Reg) (s : State) : exec (.ldDtVx x) s = .next (s.setDt (readV s x)) := rfl

theorem exec_ldStVx (x : Reg) (s : State) : exec (.ldStVx x) s = .next (s.setSt (readV s x)) := rfl

/-- Settles O55: the three opcodes are encodings, and each execute step is one write: of the destination with `dt`, or
of one timer with `VX`; a write of `st` leaves the audio output to follow the byte written. -/
theorem timerAccess : Obligations.TimerAccess := fun x s =>
  ⟨RoundTrip.ldVxDt x rfl, RoundTrip.ldDtVx x rfl, RoundTrip.ldStVx x rfl,
    ⟨_, exec_ldVxDt x s, setV_plainResult s x s.dt⟩,
    ⟨_, exec_ldDtVx x s, setDt_dt s _, setDt_st s _, setDt_lastTimerTick s _, setDt_keeps s _⟩,
    ⟨_, exec_ldStVx x s, setSt_st s _, setSt_dt s _, setSt_lastTimerTick s _, audioEnable_iff _, setSt_keeps s _⟩⟩

end Sys2Proof
end

section
/-! PROOF. The timer check at the end of the tick (49_cycle_controller R254). -/

namespace Sys2Proof

open Sys2Proof.Machine

/-- The end of a tick leaves the timers and the time of the last decrement to the timer check. -/
theorem endTick_keepsTimers_timerCheck {u : State} (hr : u.runState = .running) :
    KeepsTimers (timerCheck u) (endTick u) := by simp [endTick_running hr]

/-- A period elapsed: one saturating decrement of each timer, and the time is taken. -/
theorem endTick_timers_of_elapsed {u : State} (hr : u.runState = .running) (hp : periodElapsed u = true) :
    (endTick u).dt.toNat = u.dt.toNat - 1 ∧ (endTick u).st.toNat = u.st.toNat - 1 ∧
      (endTick u).lastTimerTick = u.env.now := by
  obtain ⟨hdt, hst, htick⟩ := endTick_keepsTimers_timerCheck hr
  rcases timerCheck_cases u with ⟨_, hc⟩ | ⟨hn, _⟩
  · rw [hdt, hst, htick, hc]
    exact ⟨decrementTimer_toNat u.dt, decrementTimer_toNat u.st, rfl⟩
  · simp [hn] at hp

/-- No period elapsed: nothing is decremented and no time is taken. -/
theorem endTick_keepsTimers_of_not_elapsed {u : State} (hr : u.runState = .running) (hp : ¬ periodElapsed u = true) :
    KeepsTimers u (endTick u) := by
  rcases timerCheck_cases u with ⟨he, _⟩ | ⟨_, hc⟩
  · exact absurd he hp
  · simpa only [hc] using endTick_keepsTimers_timerCheck hr

/-- `endTick_keeps` in the terms the core's state is observed in: register reads, memory reads and pixels. -/
theorem endTick_frame (u : State) :
    KeepsRegs u (endTick u) ∧ (endTick u).pc = u.pc ∧ (endTick u).idx = u.idx ∧ KeepsCallStack u (endTick u) ∧
      KeepsMemory u (endTick u) ∧ KeepsDisplay u (endTick u) ∧ KeepsRunAndFault u (endTick u) ∧
      (endTick u).config = u.config := by
  obtain ⟨hv, hpc, hidx, hstack, hmem, hrun, hfb, hconfig⟩ := endTick_keeps u
  exact ⟨fun r => by simp only [readV, hv], hpc, hidx, hstack, fun a => by simp only [memRead, hmem, hconfig],
    fun x y => by rw [hfb], hrun, hconfig⟩

/-- Settles O15: the tick is the execute step followed by the end of the tick, whose timer check decrements exactly when
a period elapsed. -/
theorem timerCheckEndsTick : Obligations.TimerCheckEndsTick := fun s u i hs hi hexec hr => by
  have hstep : step s = .next (endTick u) := by rw [step_of_instr hs hi, hexec, afterExecute]
  refine ⟨endTick u, hstep, ?_, ?_, endTick_frame u⟩ <;> rw [← periodElapsed_iff]
  · exact endTick_timers_of_elapsed hr
  · exact endTick_keepsTimers_of_not_elapsed hr

end Sys2Proof
end

section
/-! PROOF. The decoder and the encoder are inverse to each other (30_encoding R92, R94, R96). -/

namespace Sys2Proof

open Sys2Proof.Laws

/-- Settles O1, by the constructors of `Instr`: each one's round trip is a law of its own. -/
theorem decodeAfterEncode : Obligations.DecodeAfterEncode := fun i hi => by
  cases i with
  | cls => exact RoundTrip.cls hi
  | ret => exact RoundTrip.ret hi
  | jp nnn => exact RoundTrip.jp nnn hi
  | call nnn => exact RoundTrip.call nnn hi
  | seImm x kk => exact RoundTrip.seImm x kk hi
  | sneImm x kk => exact RoundTrip.sneImm x kk hi
  | seReg x y => exact RoundTrip.seReg x y hi
  | ldImm x kk => exact RoundTrip.ldImm x kk hi
  | addImm x kk => exact RoundTrip.addImm x kk hi
  | ldReg x y => exact RoundTrip.ldReg x y hi
  | orReg x y => exact RoundTrip.orReg x y hi
  | andReg x y => exact RoundTrip.andReg x y hi
  | xorReg x y => exact RoundTrip.xorReg x y hi
  | addReg x y => exact RoundTrip.addReg x y hi
  | sub x y => exact RoundTrip.sub x y hi
  | shr x y => exact RoundTrip.shr x y hi
  | subn x y => exact RoundTrip.subn x y hi
  | shl x y => exact RoundTrip.shl x y hi
  | sneReg x y => exact RoundTrip.sneReg x y hi
  | ldI nnn => exact RoundTrip.ldI nnn hi
  | jpI nnn => exact RoundTrip.jpI nnn hi
  | rnd x kk => exact RoundTrip.rnd x kk hi
  | drw x y n => exact RoundTrip.drw x y n hi
  | skp x => exact RoundTrip.skp x hi
  | sknp x => exact RoundTrip.sknp x hi
  | ldVxDt x => exact RoundTrip.ldVxDt x hi
  | ldVxK x => exact RoundTrip.ldVxK x hi
  | ldDtVx x => exact RoundTrip.ldDtVx x hi
  | ldStVx x => exact RoundTrip.ldStVx x hi
  | addI x => exact RoundTrip.addI x hi
  | ldF x => exact RoundTrip.ldF x hi
  | ldB x => exact RoundTrip.ldB x hi
  | stRegs x => exact RoundTrip.stRegs x hi
  | ldRegs x => exact RoundTrip.ldRegs x hi

/-- An opcode of a known group is its format A. -/
theorem formatA_of_group {op : Opcode} {g : Nibble} (hg : groupField op = g) : formatA g (nnnField op) = op :=
  hg ▸ formatA_fields op

theorem formatI_of_group {op : Opcode} {g : Nibble} (hg : groupField op = g) :
    formatI g (xField op) (kkField op) = op := hg ▸ formatI_fields op

theorem formatI_of_selector {op : Opcode} {g : Nibble} {kk : Byte} (hg : groupField op = g) (hk : kkField op = kk) :
    formatI g (xField op) kk = op := hk ▸ formatI_of_group hg

theorem formatR_of_group {op : Opcode} {g : Nibble} (hg : groupField op = g) :
    formatR g (xField op) (yField op) (nField op) = op := hg ▸ formatR_fields op

theorem formatR_of_selector {op : Opcode} {g n : Nibble} (hg : groupField op = g) (hn : nField op = n) :
    formatR g (xField op) (yField op) n = op := hn ▸ formatR_of_group hg

/-- The cases are the groups of `classify`, taken together by format: the fields the decoder reads and the selectors it
compares are all the bits of the opcode. -/
theorem encode_of_classify {op : Opcode} {i : Instr} (h : classify op = some i) : encode i = op := by
  unfold classify at h
  split at h
  case h_1 => -- format E: no operands
    split at h <;> cases h <;> rfl
  case h_2 hg | h_3 hg | h_11 hg | h_12 hg => -- format A
    cases h; exact formatA_of_group hg
  case h_4 hg | h_5 hg | h_7 hg | h_8 hg | h_13 hg => -- format I
    cases h; exact formatI_of_group hg
  case h_6 hg | h_9 hg | h_10 hg => -- format R
    split at h <;> cases h <;> exact formatR_of_selector hg ‹_›
  case h_14 hg => -- format D
    cases h
    rw [encode, BitVec.ofNat_toNat, BitVec.setWidth_eq]
    exact formatR_of_group hg
  case h_15 hg | h_16 hg => -- format S
    split at h <;> cases h <;> exact formatI_of_selector hg ‹_›
  case h_17 => cases h

/-- Only the row count of DRW can be ill formed, and the decoder reads it from four bits. -/
theorem wellFormed_of_classify {op : Opcode} {i : Instr} (h : classify op = some i) : i.WellFormed := by
  cases i with
  | drw x y n =>
    have hn : n = op.toNat % 16 := (operandsAreFields_of_classify h).2.2
    exact decide_eq_true (by omega)
  | _ => rfl

/-- Settles O2, by the groups of the decoder. -/
theorem encodeAfterDecode : Obligations.EncodeAfterDecode := fun _ _ h =>
  ⟨encode_of_classify (decode_eq_ok.1 h), wellFormed_of_classify (decode_eq_ok.1 h)⟩

end Sys2Proof
end

section
/-! PROOF. What the execute step of each instruction can do, said once, as the one update of the state it makes. -/

namespace Sys2Proof

open Sys2Proof.Machine

/-- The cause of a fault of the instruction `i`, executed in `s` (60_exceptions R282, R284 to R286). -/
def FaultsWith (s : State) (i : Instr) : FaultKind → Prop
  | .noFault | .invalidInstruction => False
  | .stackOverflow => ∃ nnn, i = .call nnn ∧ s.sp.val = 16
  | .stackUnderflow => i = .ret ∧ s.sp.val = 0
  | .memoryOutOfRange =>
    (∃ x y n, i = .drw x y n ∧ 1 ≤ n ∧ s.idx.toNat + n - 1 > 4095) ∨
      (∃ x, i = .ldB x ∧ s.idx.toNat + 2 > 4095) ∨
      (∃ x, (i = .stRegs x ∨ i = .ldRegs x) ∧ s.idx.toNat + x.val > 4095)
  | .keyIndexOutOfRange => ∃ x, (i = .skp x ∨ i = .sknp x) ∧ (readV s x).toNat > 15

/-- The instructions that write the index register (10_state R29). -/
def WritesIndex (i : Instr) : Prop := (∃ nnn, i = .ldI nnn) ∨ (∃ x, i = .addI x) ∨ (∃ x, i = .ldF x)

/-- `ExecEffect s i t`: the state `t` differs from `s` by one update that the instruction `i` may make, or by the fault
that `i` has a cause for in `s`. -/
inductive ExecEffect (s : State) : Instr → State → Prop
  | fault {i : Instr} {k : FaultKind} (h : FaultsWith s i k) : ExecEffect s i (raiseFault k (encode i) s)
  | pc (i : Instr) (w : Word16) : ExecEffect s i (s.setPc w)
  | reg {i : Instr} {x : Reg} (h : MayWriteReg i x) (b : Byte) : ExecEffect s i (s.setV x b)
  | regAndFlag {i : Instr} {x : Reg} (hx : MayWriteReg i x) (hf : MayWriteReg i regVF) (b : Byte) (f : Bool) :
    ExecEffect s i (writeResultAndFlag s x b f)
  | loadRegs {x : Reg} {v : Vector Byte 16} (h : ∀ r : Reg, ¬ r ≤ x → v[r.val] = readV s r) :
    ExecEffect s (.ldRegs x) (s.setRegs v)
  | idx {i : Instr} (h : WritesIndex i) (w : Word16) : ExecEffect s i (s.setIdx w)
  | dt (x : Reg) : ExecEffect s (.ldDtVx x) (s.setDt (readV s x))
  | st (x : Reg) : ExecEffect s (.ldStVx x) (s.setSt (readV s x))
  | clear : ExecEffect s .cls (s.setFb (dispClear s.env.fb))
  | draw (x y : Reg) (n : Nat) : ExecEffect s (.drw x y n) (drawSprite s x y n)
  | storeDigits (x : Reg) :
    ExecEffect s (.ldB x) (storeBytes s (effectiveAddress s 0) (decimalDigits (readV s x)))
  | storeRegs (x : Reg) : ExecEffect s (.stRegs x) (storeBytes s (effectiveAddress s 0) (registerBlock s x))
  | call (nnn : Addr12) (h : s.sp.val < 16) :
    ExecEffect s (.call nnn) ((pushReturn s s.pc h).setPc (zextAddr nnn))
  | ret (h : 0 < s.sp.val) : ExecEffect s .ret (popReturn s h)

/-- The range check answers the effect or, outside memory, the fault. -/
theorem withFootprint_cases {i : Instr} {len : Nat} {s e t : State} (h : withFootprint i len s e = .next t) :
    t = e ∨ ((1 ≤ len ∧ 4095 < s.idx.toNat + (len - 1)) ∧ t = raiseFault .memoryOutOfRange (encode i) s) := by
  by_cases hr : len = 0 ∨ s.idx.toNat + (len - 1) ≤ 4095
  · rw [withFootprint_inside e hr] at h; cases h; exact .inl rfl
  · have hout : 1 ≤ len ∧ 4095 < s.idx.toNat + (len - 1) := by omega
    rw [withFootprint_outside e hout] at h; cases h; exact .inr ⟨hout, rfl⟩

/-- The key test moves the program counter or, above 15, takes the fault. -/
theorem keyTest_cases {i : Instr} {x : Reg} {p : Bool} {s t : State} (h : keyTest i x p s = .next t) :
    (∃ w, t = s.setPc w) ∨ (15 < (readV s x).toNat ∧ t = raiseFault .keyIndexOutOfRange (encode i) s) := by
  by_cases hx : 15 < (readV s x).toNat
  · rw [keyTest_outside i p hx] at h; cases h; exact .inr ⟨hx, rfl⟩
  · rw [keyTest_inside i (k := ⟨(readV s x).toNat, by omega⟩) p rfl] at h
    cases h
    exact .inl ⟨_, skipIf_eq_setPc _ s⟩

/-- A skip is a move of the program counter. -/
theorem execEffect_skipIf (i : Instr) (c : Bool) (s : State) : ExecEffect s i (skipIf c s) := by
  rw [skipIf_eq_setPc]; exact .pc i _

/-- Every execute step makes one of the updates of `ExecEffect`. -/
theorem exec_effect {i : Instr} {s t : State} (h : exec i s = .next t) : ExecEffect s i t := by
  cases i with
  | cls => cases h; exact .clear
  | ret =>
    simp only [exec, execRet] at h
    split at h <;> cases h
    · exact .ret _
    · exact .fault (k := .stackUnderflow) ⟨rfl, by omega⟩
  | call nnn =>
    simp only [exec, execCall] at h
    split at h <;> cases h
    · exact .call nnn _
    · exact .fault (k := .stackOverflow) ⟨nnn, rfl, by omega⟩
  | drw x y n =>
    obtain rfl | ⟨hr, rfl⟩ := withFootprint_cases h
    · exact .draw x y n
    · exact .fault (k := .memoryOutOfRange) (.inl ⟨x, y, n, rfl, by omega⟩)
  | ldB x =>
    obtain rfl | ⟨hr, rfl⟩ := withFootprint_cases h
    · exact .storeDigits x
    · exact .fault (k := .memoryOutOfRange) (.inr (.inl ⟨x, rfl, by omega⟩))
  | stRegs x =>
    obtain rfl | ⟨hr, rfl⟩ := withFootprint_cases h
    · exact .storeRegs x
    · exact .fault (k := .memoryOutOfRange) (.inr (.inr ⟨x, .inl rfl, by omega⟩))
  | ldRegs x =>
    obtain rfl | ⟨hr, rfl⟩ := withFootprint_cases h
    · exact .loadRegs fun r hr => by simp [loadedRegs, hr]
    · exact .fault (k := .memoryOutOfRange) (.inr (.inr ⟨x, .inr rfl, by omega⟩))
  | skp x =>
    obtain ⟨w, rfl⟩ | ⟨hx, rfl⟩ := keyTest_cases h
    · exact .pc _ w
    · exact .fault (k := .keyIndexOutOfRange) ⟨x, .inl rfl, hx⟩
  | sknp x =>
    obtain ⟨w, rfl⟩ | ⟨hx, rfl⟩ := keyTest_cases h
    · exact .pc _ w
    · exact .fault (k := .keyIndexOutOfRange) ⟨x, .inr rfl, hx⟩
  | jp nnn | jpI nnn => cases h; exact .pc _ _
  | seImm | sneImm | seReg | sneReg => cases h; exact execEffect_skipIf _ _ s
  | ldImm | ldReg | orReg | andReg | xorReg | rnd | ldVxDt => cases h; exact .reg (by exact rfl) _
  | addImm | addReg | sub | subn | shr | shl => cases h; exact .regAndFlag (by exact .inl rfl) (by exact .inr rfl) _ _
  | ldVxK x =>
    simp only [exec, execLdVxK] at h
    split at h <;> cases h
    · exact .pc _ _
    · exact .reg (by exact rfl) _
  | ldI nnn => cases h; exact .idx (.inl ⟨nnn, rfl⟩) _
  | addI x => cases h; exact .idx (.inr (.inl ⟨x, rfl⟩)) _
  | ldF x => cases h; exact .idx (.inr (.inr ⟨x, rfl⟩)) _
  | ldDtVx x => cases h; exact .dt x
  | ldStVx x => cases h; exact .st x

/-! ### The frames that follow -/

variable {i : Instr} {s t : State}

theorem ExecEffect.config (h : ExecEffect s i t) : t.config = s.config := by cases h <;> rfl

theorem ExecEffect.dt_cases (h : ExecEffect s i t) : t.dt = s.dt ∨ ∃ x, i = .ldDtVx x := by
  cases h with
  | dt x => exact .inr ⟨x, rfl⟩
  | _ => exact .inl rfl

theorem ExecEffect.st_cases (h : ExecEffect s i t) : t.st = s.st ∨ ∃ x, i = .ldStVx x := by
  cases h with
  | st x => exact .inr ⟨x, rfl⟩
  | _ => exact .inl rfl

theorem ExecEffect.idx_cases (h : ExecEffect s i t) : t.idx = s.idx ∨ WritesIndex i := by
  cases h with
  | idx hi w => exact .inr hi
  | _ => exact .inl rfl

/-- A register that differs is one the instruction may write. -/
theorem ExecEffect.reg_cases (h : ExecEffect s i t) (r : Reg) : readV t r = readV s r ∨ MayWriteReg i r := by
  cases h with
  | @reg _ x hx b =>
    by_cases hr : r = x
    · exact .inr (hr ▸ hx)
    · exact .inl (readV_setV_ne s b hr)
  | @regAndFlag _ x hx hf b f =>
    by_cases hr : r = x ∨ r = regVF
    · obtain rfl | rfl := hr <;> exact .inr ‹_›
    · exact .inl ((writeResultAndFlag_spec s x b f).2.2.2.1 r hr)
  | @loadRegs x v hv =>
    by_cases hr : r ≤ x
    · exact .inr hr
    · exact .inl (hv r hr)
  | draw x y n =>
    by_cases hr : r = regVF
    · exact .inr hr
    · exact .inl (readV_setV_ne _ _ hr)
  | _ => exact .inl rfl

/-- CALL raises the stack pointer and writes the entry at it; RET lowers the pointer; nothing else moves the stack. -/
theorem ExecEffect.stack_cases (h : ExecEffect s i t) :
    KeepsCallStack s t ∨
      (∃ nnn, i = .call nnn ∧ t.sp.val = s.sp.val + 1 ∧
        ∀ k : Fin 16, k.val ≠ s.sp.val → t.stack[k.val] = s.stack[k.val]) ∨
      (i = .ret ∧ t.sp.val + 1 = s.sp.val ∧ t.stack = s.stack) := by
  cases h with
  | call nnn h =>
    refine .inr (.inl ⟨nnn, rfl, rfl, fun k hk => ?_⟩)
    exact Vector.getElem_set_ne h k.isLt (Ne.symm hk)
  | ret h => exact .inr (.inr ⟨rfl, Nat.sub_add_cancel h, rfl⟩)
  | _ => exact .inl ⟨rfl, rfl⟩

end Sys2Proof
end

section
/-! PROOF. Every step keeps the machine's invariant (10_state R42; 47_interfaces R224, R230). -/

namespace Sys2Proof

open Sys2Proof.Machine

variable {s t : State}

/-- Fault entry records a fault and faults the core together, and touches nothing else the invariant speaks of. -/
theorem inv_raiseFault (hs : Inv s) {k : FaultKind} (hk : k ≠ .noFault) (op : Opcode) : Inv (raiseFault k op s) := by
  obtain ⟨hc, hm, _, he, ht⟩ := hs
  exact ⟨hc, hm, by simp [hk], he, ht⟩

/-- A stop of a running core records no fault. -/
theorem inv_stop (hs : Inv s) (hr : s.runState = .running) : Inv (s.setRunState .stopped) := by
  obtain ⟨hc, hm, hf, he, ht⟩ := hs
  have hk : s.faultKind = .noFault := hf.2 (by simp [hr])
  exact ⟨hc, hm, by simp [hk], he, ht⟩

/-- A store of LD_B or ST_REGS stays inside memory, so it keeps the canonical form. -/
theorem exec_keeps_memory_wf {i : Instr} (h : exec i s = .next t) (hm : Memory.wf s.config s.mem = true) :
    Memory.wf s.config t.mem = true := by
  obtain he | ⟨bs, he, hlen, _⟩ := exec_mem_cases h
  · rw [he]; exact hm
  · rw [he]; exact Memory.wf_writeBytes hm hlen

/-- CLS leaves no pixel, and the calls of DRW lie in the grid of an allowed configuration. -/
theorem exec_keeps_fb_wf {i : Instr} (h : exec i s = .next t) (hc : s.config.wf = true)
    (hfb : Framebuffer.wf s.config s.env.fb = true) : Framebuffer.wf s.config t.env.fb = true := by
  obtain he | ⟨_, he⟩ | ⟨x, y, n, _, he⟩ := exec_fb_cases h
  · rw [he]; exact hfb
  · rw [he]; exact Framebuffer.wf_dispClear _ _
  · rw [he]; exact Framebuffer.wf_drawCalls (spriteCalls_inGrid hc _ _ _ _) hfb _

theorem exec_keeps_inv {i : Instr} (h : exec i s = .next t) (hs : Inv s) : Inv t := by
  obtain ⟨k, hk, rfl⟩ | ⟨⟨hrun, hin, _, hconfig⟩, htick⟩ := exec_cases h
  · exact inv_raiseFault hs hk _
  · obtain ⟨hc, hm, hf, ⟨hfb, hnow⟩, ht⟩ := hs
    obtain ⟨hr, hk, _⟩ := hrun
    obtain ⟨_, hn, _⟩ := hin
    unfold Machine.Inv EnvInv
    rw [hconfig, hr, hk, hn, htick]
    exact ⟨hc, exec_keeps_memory_wf h hm, hf, ⟨exec_keeps_fb_wf h hc hfb, hnow⟩, ht⟩

/-- The timer check takes the time it has reached, and the next answers of the environment are no earlier. -/
theorem endTick_keeps_inv (hs : Inv s) : Inv (endTick s) := by
  by_cases hr : s.runState = .running
  · obtain ⟨hc, hm, hf, he, ht⟩ := hs
    have htime : (timerCheck s).lastTimerTick ≤ s.env.now := by
      obtain ⟨_, hcheck⟩ | ⟨_, hcheck⟩ := timerCheck_cases s <;> rw [hcheck]
      · exact le_refl _
      · exact ht
    obtain ⟨_, _, _, _, hmem, ⟨hrun, hkind, _⟩, _, hconfig⟩ := endTick_keeps s
    obtain ⟨_, _, htick⟩ := endTick_keepsTimers_timerCheck hr
    have henv : (endTick s).env = s.env.redraw s.config := by rw [endTick_running hr]; rfl
    unfold Machine.Inv EnvInv
    rw [hconfig, hmem, hrun, hkind, henv, htick]
    exact ⟨hc, hm, hf, redraw_envInv he, htime.trans (redraw_now _ _)⟩
  · rw [endTick_halted hr]; exact hs

/-- Settles O23, by the four ends of a tick; the fetch's advance of `pc` touches nothing the invariant speaks of. -/
theorem stepKeepsInvariant : Obligations.StepKeepsInvariant := fun s t hs h => by
  have hadvanced : Inv (advancePc s) := hs
  obtain ⟨_, rfl⟩ | ⟨hr, _, rfl⟩ | ⟨_, _, rfl⟩ | ⟨_, i, u, _, hexec, rfl⟩ := step_cases h
  · exact hs
  · exact inv_stop hs hr
  · exact inv_raiseFault hadvanced (by decide) _
  · exact endTick_keeps_inv (exec_keeps_inv hexec hadvanced)

end Sys2Proof
end

section
/-! PROOF. What a tick changes, and by which instructions alone (10_state R22, R29 to R33; 20_memory R62; 47_interfaces
R224; 00_scope R5). -/

namespace Sys2Proof

open Sys2Proof.Machine

variable {s t : State}

/-- An element that the program counter, the run state and the fault registers do not reach differs after a tick only
by the execute step of the instruction that ran, or by the end of its tick. -/
theorem step_change {α : Type} (f : State → α) (hpc : ∀ u w, f (u.setPc w) = f u)
    (hrun : ∀ u r, f (u.setRunState r) = f u) (hfault : ∀ u k op a, f (u.setFaultRegs k op a) = f u)
    (h : step s = .next t) (hne : f t ≠ f s) :
    Ready s ∧ ∃ i u, Fetches s i ∧ exec i (advancePc s) = .next u ∧ t = endTick u := by
  obtain ⟨_, rfl⟩ | ⟨_, _, rfl⟩ | ⟨_, _, rfl⟩ | ⟨hs, i, u, hi, hexec, rfl⟩ := step_cases h
  · exact absurd rfl hne
  · exact absurd (hrun s _) hne
  · refine absurd ?_ hne
    rw [raiseFault, hrun, hfault, advancePc, hpc]
  · exact ⟨hs, i, u, hi, hexec, rfl⟩

/-! ### Registers, index register, call stack -/

/-- Settles O20: the end of a tick writes no register, and the execute step only those the instruction may write. -/
theorem onlyDestinationsChange : Obligations.OnlyDestinationsChange := fun s t r h hne => by
  obtain ⟨hs, i, u, hi, hexec, rfl⟩ :=
    step_change (readV · r) (fun _ _ => rfl) (fun _ _ => rfl) (fun _ _ _ _ => rfl) h hne
  have hend : readV (endTick u) r = readV u r := (endTick_frame u).1 r
  exact ⟨hs, i, hi, ((exec_effect hexec).reg_cases r).resolve_left (hend ▸ hne)⟩

/-- Settles O21. -/
theorem onlyIndexInstructionsChangeIndex : Obligations.OnlyIndexInstructionsChangeIndex := fun s t h hne => by
  obtain ⟨hs, i, u, hi, hexec, rfl⟩ :=
    step_change State.idx (fun _ _ => rfl) (fun _ _ => rfl) (fun _ _ _ _ => rfl) h hne
  have hend : (endTick u).idx = u.idx := (endTick_frame u).2.2.1
  obtain ⟨nnn, rfl⟩ | ⟨x, rfl⟩ | ⟨x, rfl⟩ := (exec_effect hexec).idx_cases.resolve_left (hend ▸ hne)
  · exact ⟨hs, .inl ⟨nnn, hi⟩⟩
  · exact ⟨hs, .inr (.inl ⟨x, hi⟩)⟩
  · exact ⟨hs, .inr (.inr ⟨x, hi⟩)⟩

/-- Settles O18: the stack and its pointer, taken as one element, move by the effects of CALL and RET alone. -/
theorem onlyCallAndRetMoveTheStack : Obligations.OnlyCallAndRetMoveTheStack := fun s t h hne => by
  have hpair : (t.sp, t.stack) ≠ (s.sp, s.stack) := by rw [ne_eq, Prod.mk.injEq]; tauto
  obtain ⟨hs, i, u, hi, hexec, rfl⟩ :=
    step_change (fun u => (u.sp, u.stack)) (fun _ _ => rfl) (fun _ _ => rfl) (fun _ _ _ _ => rfl) h hpair
  obtain ⟨_, _, _, ⟨hsp, hstack⟩, _⟩ := endTick_frame u
  rw [hsp, hstack] at hne ⊢
  obtain ⟨hsp', hstack'⟩ | ⟨nnn, rfl, hcall⟩ | ⟨rfl, hret⟩ := (exec_effect hexec).stack_cases
  · exact absurd hne (by rw [hsp', hstack']; simp [advancePc])
  · exact ⟨hs, .inl ⟨nnn, hi, hcall⟩⟩
  · exact ⟨hs, .inr ⟨hi, hret⟩⟩

/-! ### Memory and picture -/

/-- A byte that differs after an execute step lies in the block that LD_B or ST_REGS stored. -/
theorem exec_memRead_change {i : Instr} (h : exec i s = .next t) {a : Nat} (hne : memRead t a ≠ memRead s a) :
    s.idx.toNat ≤ a ∧ a ≤ 4095 ∧
      ((∃ x, i = .ldB x ∧ a ≤ s.idx.toNat + 2) ∨ ∃ x, i = .stRegs x ∧ a ≤ s.idx.toNat + x.val) := by
  rw [memRead, memRead, (exec_effect h).config] at hne
  obtain hmem | ⟨bs, hmem, hlen, hi⟩ := exec_mem_cases h
  · exact absurd (by rw [hmem]) hne
  · have hin : s.idx.toNat ≤ a ∧ a - s.idx.toNat < bs.length := by
      by_contra hout
      exact hne (by rw [hmem, Memory.read_writeBytes, dif_neg hout])
    refine ⟨hin.1, by omega, ?_⟩
    obtain ⟨x, rfl, hx⟩ | ⟨x, rfl, hx⟩ := hi
    · exact .inl ⟨x, rfl, by omega⟩
    · exact .inr ⟨x, rfl, by omega⟩

/-- Settles O19: the byte that differs lies in the block the instruction stored. -/
theorem onlyStoresChangeMemory : Obligations.OnlyStoresChangeMemory := fun s t a h hne => by
  obtain ⟨hs, i, u, hi, hexec, rfl⟩ :=
    step_change (memRead · a) (fun _ _ => rfl) (fun _ _ => rfl) (fun _ _ _ _ => rfl) h hne
  obtain ⟨_, _, _, _, hend, _⟩ := endTick_frame u
  obtain ⟨hlo, hhi, ⟨x, rfl, hx⟩ | ⟨x, rfl, hx⟩⟩ := exec_memRead_change hexec (hend a ▸ hne)
  · exact ⟨hs, hlo, hhi, .inl ⟨x, hi, hx⟩⟩
  · exact ⟨hs, hlo, hhi, .inr ⟨x, hi, hx⟩⟩

/-- Settles O22. -/
theorem onlyClsAndDrwChangeThePicture : Obligations.OnlyClsAndDrwChangeThePicture := fun s t px py h hne => by
  obtain ⟨hs, i, u, hi, hexec, rfl⟩ :=
    step_change (pixel ·.env.fb px py) (fun _ _ => rfl) (fun _ _ => rfl) (fun _ _ _ _ => rfl) h hne
  obtain ⟨_, _, _, _, _, hend, _⟩ := endTick_frame u
  rw [hend] at hne
  obtain hfb | ⟨rfl, _⟩ | ⟨x, y, n, rfl, _⟩ := exec_fb_cases hexec
  · exact absurd (by rw [hfb]; rfl) hne
  · exact ⟨hs, .inl hi⟩
  · exact ⟨hs, .inr ⟨x, y, n, hi⟩⟩

/-! ### Timers -/

/-- A decrement lowers a timer by one, or finds it at zero. -/
theorem decrementTimer_cases (b : Byte) :
    decrementTimer b = b ∨ (decrementTimer b).toNat + 1 = b.toNat := by
  have hdec := decrementTimer_toNat b
  rcases Nat.eq_zero_or_pos b.toNat with hb | hb
  · exact .inl (BitVec.eq_of_toNat_eq (by omega))
  · exact .inr (by omega)

/-- The end of a tick leaves both timers alone or decrements both. -/
theorem endTick_timer_cases (u : State) :
    ((endTick u).dt = u.dt ∧ (endTick u).st = u.st) ∨
      ((endTick u).dt = decrementTimer u.dt ∧ (endTick u).st = decrementTimer u.st) := by
  by_cases hr : u.runState = .running
  · obtain ⟨hdt, hst, _⟩ := endTick_keepsTimers_timerCheck hr
    rw [hdt, hst]
    obtain ⟨_, hc⟩ | ⟨_, hc⟩ := timerCheck_cases u <;> rw [hc]
    · exact .inr ⟨rfl, rfl⟩
    · exact .inl ⟨rfl, rfl⟩
  · rw [endTick_halted hr]; exact .inl ⟨rfl, rfl⟩

/-- A timer that the end of a tick leaves alone or decrements is one less wherever it differs. -/
theorem timer_falls {a b : Byte} (h : b = a ∨ b = decrementTimer a) (hne : b ≠ a) : b.toNat + 1 = a.toNat := by
  obtain rfl := h.resolve_left hne
  exact (decrementTimer_cases a).resolve_left hne

/-- Settles O16: the execute step leaves a timer alone or is its write, and the end of the tick decrements it at most
once. -/
theorem timersFallUnlessWritten : Obligations.TimersFallUnlessWritten := fun s t h => by
  constructor <;> intro hne
  · obtain ⟨hs, i, u, hi, hexec, rfl⟩ :=
      step_change State.dt (fun _ _ => rfl) (fun _ _ => rfl) (fun _ _ _ _ => rfl) h hne
    obtain hdt | ⟨x, rfl⟩ := (exec_effect hexec).dt_cases
    · have hend := (endTick_timer_cases u).imp And.left And.left
      rw [hdt] at hend
      exact .inr (timer_falls hend hne)
    · exact .inl ⟨hs, x, hi⟩
  · obtain ⟨hs, i, u, hi, hexec, rfl⟩ :=
      step_change State.st (fun _ _ => rfl) (fun _ _ => rfl) (fun _ _ _ _ => rfl) h hne
    obtain hst | ⟨x, rfl⟩ := (exec_effect hexec).st_cases
    · have hend := (endTick_timer_cases u).imp And.right And.right
      rw [hst] at hend
      exact .inr (timer_falls hend hne)
    · exact .inl ⟨hs, x, hi⟩

/-! ### The configuration -/

/-- Settles O60: neither the execute step nor the end of a tick writes the configuration, and no move of the host
does. -/
theorem configurationNeverChanges : Obligations.ConfigurationNeverChanges := by
  refine ⟨fun s t h => ?_, fun _ => rfl, fun bytes s t h => ?_, fun _ _ _ => rfl⟩
  · by_contra hne
    obtain ⟨_, i, u, _, hexec, rfl⟩ :=
      step_change State.config (fun _ _ => rfl) (fun _ _ => rfl) (fun _ _ _ _ => rfl) h hne
    obtain ⟨_, _, _, _, _, _, _, hend⟩ := endTick_frame u
    exact hne (hend.trans (exec_effect hexec).config)
  · unfold loadImage at h
    split at h
    · cases h
    · split at h <;> cases h
      rfl

end Sys2Proof
end

section
/-! PROOF. The controller tick: its quit test, fetch, decode and execute steps (49_cycle_controller R250 to R262;
20_memory R66; 47_interfaces R231). -/

namespace Sys2Proof

open Sys2Proof.Machine

/-- Settles O8. -/
theorem haltedTickDoesNothing : Obligations.HaltedTickDoesNothing := fun _ h => step_of_not_running h

/-- Settles O9. -/
theorem quitStopsTheCore : Obligations.QuitStopsTheCore := fun _ hr hq => ⟨_, step_of_quit hr hq, rfl⟩

/-- Settles O10. -/
theorem stepRunsDecodedInstruction : Obligations.StepRunsDecodedInstruction := fun s i hs hi => by
  refine ⟨advancePc_pc s, advancePc_keeps s, ?_⟩
  obtain ⟨t, ht⟩ := exec_next i (advancePc s)
  rw [step_of_instr hs hi, ht]
  rfl

/-- Settles O17: with the core running and no quit, the opcode decodes or not, and both ways the answer is a next
state. -/
theorem everyTickAnswersNext : Obligations.EveryTickAnswersNext := fun s => by
  by_cases hr : s.runState = .running
  · by_cases hq : s.env.quit = true
    · exact ⟨_, step_of_quit hr hq⟩
    · have hs : Ready s := ⟨hr, by simpa using hq⟩
      obtain ⟨i, hi⟩ | hi := decode_ok_or_error (fetchOpcode s)
      · obtain ⟨t, ht⟩ := exec_next i (advancePc s)
        exact ⟨endTick t, by rw [step_of_instr hs hi, ht]; rfl⟩
      · exact ⟨_, step_of_invalid hs (decode_eq_error.1 hi).1⟩
  · exact ⟨s, step_of_not_running hr⟩

/-! ### The fetch -/

/-- Two bytes joined, the first one high, as a number. -/
theorem append_byte_toNat (a b : Byte) : (a ++ b).toNat = 256 * a.toNat + b.toNat := by
  rw [BitVec.toNat_append, ← Nat.shiftLeft_add_eq_or_of_lt b.isLt, Nat.shiftLeft_eq]
  omega

/-- Settles O11. -/
theorem fetchWordReadsBigEndian : Obligations.FetchWordReadsBigEndian := fun s =>
  ⟨fun h => by rw [fetchOpcode, Memory.fetchWord_inside s.mem h, append_byte_toNat]; rfl,
    fun h => Memory.fetchWord_outside s.mem h⟩

/-- An opcode that stands for no instruction ends the tick with the fault entry. -/
theorem step_invalid_isFaultEntry {s : State} (hs : Ready s) (hc : classify (fetchOpcode s) = none) :
    ∃ t, step s = .next t ∧ IsFaultEntry .invalidInstruction (fetchOpcode s) (advancePc s) t :=
  ⟨_, step_of_invalid hs hc, raiseFault_isFaultEntry _ _ _⟩

/-- Settles O12: a fetch beyond memory is the case of the opcode 0x0000. -/
theorem invalidOpcodeFaults : Obligations.InvalidOpcodeFaults := fun s hs => by
  constructor
  · intro op hd
    obtain ⟨hc, he⟩ := decode_eq_error.1 hd
    obtain ⟨t, ht, hfault⟩ := step_invalid_isFaultEntry hs hc
    exact ⟨t, ht, DecodeError.invalidInstruction.inj he, hfault⟩
  · intro hout
    have hop : fetchOpcode s = 0x0000#16 := Memory.fetchWord_outside s.mem hout
    have hc : classify (fetchOpcode s) = none := by rw [hop]; rfl
    exact hop ▸ step_invalid_isFaultEntry hs hc

end Sys2Proof
end

section
/-! PROOF. The five faults: their causes, and what fault entry records (60_exceptions R280 to R286). -/

namespace Sys2Proof

open Sys2Proof.Machine

variable {s t u : State} {i : Instr} {k : FaultKind}

/-- With a cause for it the execute step takes the fault. -/
theorem exec_of_faultsWith (h : FaultsWith s i k) : exec i s = .next (raiseFault k (encode i) s) := by
  cases k with
  | noFault => exact h.elim
  | invalidInstruction => exact h.elim
  | stackOverflow =>
    obtain ⟨nnn, rfl, hsp⟩ := h
    exact dif_neg (by omega)
  | stackUnderflow =>
    obtain ⟨rfl, hsp⟩ := h
    exact dif_neg (by omega)
  | memoryOutOfRange =>
    obtain ⟨x, y, n, rfl, hn, hr⟩ | ⟨x, rfl, hr⟩ | ⟨x, rfl | rfl, hr⟩ := h <;>
      exact withFootprint_outside _ (by omega)
  | keyIndexOutOfRange =>
    obtain ⟨x, rfl | rfl, hx⟩ := h <;> exact keyTest_outside _ _ hx

/-- An execute step of a running core halts it exactly by a fault the instruction has a cause for. -/
theorem ExecEffect.running_or_fault (h : ExecEffect s i t) (hr : s.runState = .running) :
    t.runState = .running ∨ ∃ k, FaultsWith s i k ∧ t = raiseFault k (encode i) s := by
  cases h with
  | fault hk => exact .inr ⟨_, hk, rfl⟩
  | _ => exact .inl hr

/-- The end of a tick keeps the run state and the fault kind. -/
theorem endTick_faulted_iff (u : State) :
    ((endTick u).runState = .faulted ∧ (endTick u).faultKind = k) ↔ (u.runState = .faulted ∧ u.faultKind = k) := by
  obtain ⟨_, _, _, _, _, _, ⟨hr, hk, _⟩, _⟩ := endTick_frame u
  rw [hr, hk]

/-- An execute step of a running core faults with a kind exactly when there is a cause for it. -/
theorem exec_faulted_iff (h : exec i s = .next u) (hr : s.runState = .running) :
    (u.runState = .faulted ∧ u.faultKind = k) ↔ FaultsWith s i k := by
  constructor
  · rintro ⟨hf, rfl⟩
    obtain hrun | ⟨k, hk, rfl⟩ := (exec_effect h).running_or_fault hr
    · rw [hrun] at hf; cases hf
    · exact hk
  · intro hk
    rw [exec_of_faultsWith hk] at h
    cases h
    exact ⟨rfl, rfl⟩

/-- The spec's causes of a tick that fetches `i` are those of `i` in its execute step, which starts with `pc` advanced
and everything else the same. -/
theorem faultCause_iff_of_fetches (hi : Fetches s i) : FaultCause s k ↔ FaultsWith (advancePc s) i k := by
  have hd : decode (fetchOpcode s) = .ok i := hi
  cases k <;> simp [FaultCause, FaultsWith, Fetches, hd, advancePc]

/-- An opcode that stands for no instruction is the cause of its own fault and of no other. -/
theorem faultCause_iff_of_invalid (hc : classify (fetchOpcode s) = none) :
    FaultCause s k ↔ k = .invalidInstruction := by
  have hd : decode (fetchOpcode s) = .error (.invalidInstruction (fetchOpcode s)) := decode_eq_error.2 ⟨hc, rfl⟩
  cases k <;> simp [FaultCause, Fetches, hd]

/-- Settles O14, by the ends of a tick that fetches. -/
theorem faultCausesAreExactly : Obligations.FaultCausesAreExactly := fun s t hs h k => by
  obtain ⟨hn, _⟩ | ⟨_, hq, _⟩ | ⟨_, hc, rfl⟩ | ⟨_, i, u, hi, hexec, rfl⟩ := step_cases h
  · exact absurd hs.1 hn
  · exact absurd hq (by simp [hs.2])
  · rw [faultCause_iff_of_invalid hc, raiseFault_runState, raiseFault_faultKind]
    simp [eq_comm]
  · rw [endTick_faulted_iff, exec_faulted_iff hexec hs.1, faultCause_iff_of_fetches hi]

/-- A tick of a ready core that ends faulted is fault entry with the fetched opcode: what was decoded encodes back to
it. -/
theorem step_faulted_eq (hs : Ready s) (h : step s = .next t) (hf : t.runState = .faulted) :
    ∃ k, k ≠ .noFault ∧ t = raiseFault k (fetchOpcode s) (advancePc s) := by
  obtain ⟨hn, _⟩ | ⟨_, hq, _⟩ | ⟨_, _, rfl⟩ | ⟨_, i, u, hi, hexec, rfl⟩ := step_cases h
  · exact absurd hs.1 hn
  · exact absurd hq (by simp [hs.2])
  · exact ⟨_, by decide, rfl⟩
  · obtain ⟨k, hk, rfl⟩ | ⟨⟨⟨hrun, _⟩, _⟩, _⟩ := exec_cases hexec
    · have hop : encode i = fetchOpcode s := encode_of_classify (decode_eq_ok.1 hi)
      exact ⟨k, hk, by rw [endTick_halted (by simp), hop]⟩
    · have hend := ((endTick_faulted_iff u).1 ⟨hf, rfl⟩).1
      rw [hrun] at hend
      exact absurd (hs.1.symm.trans hend) (by decide)

/-- Settles O13: a faulting tick is fault entry in the state the fetch left. -/
theorem faultsArePrecise : Obligations.FaultsArePrecise := fun s t hs h hf => by
  obtain ⟨k, hk, rfl⟩ := step_faulted_eq hs h hf
  exact ⟨hk, advanced_pc_back s, advancePc_pc s, raiseFault_isFaultEntry _ _ _⟩

end Sys2Proof
end

section
/-! PROOF. The opcode table as data, and the invalid opcodes (30_encoding R96, R97, R103). -/

namespace Sys2Proof

open Sys2Proof.Laws

/-! ### The rows do not overlap -/

/-- Two rows with an opcode in common agree on the bits that both of them fix. -/
theorem agree_of_matches {r q : OpcodeRow} {op : Opcode} (hr : r.Matches op) (hq : q.Matches op) :
    r.pattern &&& q.mask = q.pattern &&& r.mask := by
  rw [← hr, ← hq, BitVec.and_assoc, BitVec.and_assoc, BitVec.and_comm r.mask]

/-- No two rows of the table agree on the bits that both of them fix. -/
theorem eq_of_agree : ∀ r ∈ opcodeTable, ∀ q ∈ opcodeTable, r.pattern &&& q.mask = q.pattern &&& r.mask → r = q := by
  decide

/-- Settles O4. -/
theorem opcodeTableRowsDisjoint : Obligations.OpcodeTableRowsDisjoint := fun _ r hr q hq hrm hqm =>
  eq_of_agree r hr q hq (agree_of_matches hrm hqm)

/-! ### A row that matches -/

theorem groupField_and (a b : Opcode) : groupField (a &&& b) = groupField a &&& groupField b :=
  BitVec.extractLsb'_and

theorem nField_and (a b : Opcode) : nField (a &&& b) = nField a &&& nField b := BitVec.extractLsb'_and

theorem kkField_and (a b : Opcode) : kkField (a &&& b) = kkField a &&& kkField b := BitVec.extractLsb'_and

variable {r : OpcodeRow} {op : Opcode}

/-- Where the mask covers a field, an opcode of the row has the field of the row's pattern. -/
theorem groupField_of_matches (h : r.Matches op) (hm : groupField r.mask = 0xF#4) :
    groupField op = groupField r.pattern := by
  rw [← h, groupField_and, hm]; exact (BitVec.and_allOnes).symm

theorem nField_of_matches (h : r.Matches op) (hm : nField r.mask = 0xF#4) : nField op = nField r.pattern := by
  rw [← h, nField_and, hm]; exact (BitVec.and_allOnes).symm

theorem kkField_of_matches (h : r.Matches op) (hm : kkField r.mask = 0xFF#8) : kkField op = kkField r.pattern := by
  rw [← h, kkField_and, hm]; exact (BitVec.and_allOnes).symm

theorem eq_pattern_of_matches (h : r.Matches op) (hm : r.mask = 0xFFFF#16) : op = r.pattern := by
  rw [← h, hm]; exact (BitVec.and_allOnes).symm

/-- The kind of instruction an opcode stands for depends on the group, on the whole opcode in group 0, on the low nibble
in groups 5, 8 and 9, and on the low byte in groups E and F. -/
theorem mnemonic_classify_congr {a b : Opcode} (hg : groupField a = groupField b)
    (ho : groupField b = 0x0#4 → a = b)
    (hn : groupField b = 0x5#4 ∨ groupField b = 0x8#4 ∨ groupField b = 0x9#4 → nField a = nField b)
    (hk : groupField b = 0xE#4 ∨ groupField b = 0xF#4 → kkField a = kkField b) :
    (classify a).map Instr.mnemonic = (classify b).map Instr.mnemonic := by
  unfold classify
  rw [hg]
  split
  case h_1 h => rw [ho h]
  case h_6 h => rw [hn (.inl h)]; split <;> rfl
  case h_9 h => rw [hn (.inr (.inl h))]; split <;> rfl
  case h_10 h => rw [hn (.inr (.inr h))]; split <;> rfl
  case h_15 h => rw [hk (.inl h)]; split <;> rfl
  case h_16 h => rw [hk (.inr h)]; split <;> rfl
  all_goals rfl

/-- The masks cover the fields that decide between the instructions of the row's group. -/
theorem masks_cover : ∀ r ∈ opcodeTable, groupField r.mask = 0xF#4 ∧
    (groupField r.pattern = 0x0#4 → r.mask = 0xFFFF#16) ∧
    (groupField r.pattern = 0x5#4 ∨ groupField r.pattern = 0x8#4 ∨ groupField r.pattern = 0x9#4 →
      nField r.mask = 0xF#4) ∧
    (groupField r.pattern = 0xE#4 ∨ groupField r.pattern = 0xF#4 → kkField r.mask = 0xFF#8) := by decide

theorem mnemonic_classify_pattern :
    ∀ r ∈ opcodeTable, (classify r.pattern).map Instr.mnemonic = some r.mnemonic := by decide

/-- An opcode of a row stands for the same kind of instruction as the row's pattern, whose mnemonic is the row's. -/
theorem decode_of_matches (hr : r ∈ opcodeTable) (h : r.Matches op) :
    ∃ i, decode op = .ok i ∧ i.mnemonic = r.mnemonic := by
  obtain ⟨hg, ho, hn, hk⟩ := masks_cover r hr
  have hclassify : (classify op).map Instr.mnemonic = some r.mnemonic :=
    (mnemonic_classify_congr (groupField_of_matches h hg) (fun hp => eq_pattern_of_matches h (ho hp))
      (fun hp => nField_of_matches h (hn hp)) (fun hp => kkField_of_matches h (hk hp))).trans
      (mnemonic_classify_pattern r hr)
  obtain ⟨i, hi, hm⟩ := Option.map_eq_some_iff.1 hclassify
  exact ⟨i, decode_eq_ok.2 hi, hm⟩

/-! ### The row of an instruction -/

/-- The bits of its opcode that an instruction fixes, by its format (R91). -/
def opcodeMask : Instr → Opcode
  | .cls | .ret => 0xFFFF#16
  | .jp _ | .call _ | .ldI _ | .jpI _ => 0xF000#16
  | .seImm _ _ | .sneImm _ _ | .ldImm _ _ | .addImm _ _ | .rnd _ _ => 0xF000#16
  | .seReg _ _ | .sneReg _ _ => 0xF00F#16
  | .ldReg _ _ | .orReg _ _ | .andReg _ _ | .xorReg _ _ | .addReg _ _ => 0xF00F#16
  | .sub _ _ | .shr _ _ | .subn _ _ | .shl _ _ => 0xF00F#16
  | .drw _ _ _ => 0xF000#16
  | .skp _ | .sknp _ => 0xF0FF#16
  | .ldVxDt _ | .ldVxK _ | .ldDtVx _ | .ldStVx _ | .addI _ | .ldF _ | .ldB _ | .stRegs _ | .ldRegs _ => 0xF0FF#16

/-- The row of the table that an instruction's opcode selects. -/
def instrRow (i : Instr) : OpcodeRow := ⟨i.mnemonic, opcodeMask i, encode i &&& opcodeMask i⟩

theorem formatA_and_group (g : Nibble) (nnn : Addr12) : formatA g nnn &&& 0xF000#16 = formatA g 0#12 := by
  have hmask : 0xF000#16 = BitVec.allOnes 4 ++ 0#12 := rfl
  rw [hmask, formatA, BitVec.and_append, BitVec.and_allOnes, BitVec.and_zero, formatA]

theorem formatI_and_group (g : Nibble) (x : Reg) (kk : Byte) :
    formatI g x kk &&& 0xF000#16 = formatI g 0 0#8 := formatA_and_group g _

theorem formatI_and_selector (g : Nibble) (x : Reg) (kk : Byte) : formatI g x kk &&& 0xF0FF#16 = formatI g 0 kk := by
  have hmask : 0xF0FF#16 = BitVec.allOnes 4 ++ (0#4 ++ BitVec.allOnes 8) := rfl
  rw [hmask, formatI, BitVec.and_append, BitVec.and_append, BitVec.and_allOnes, BitVec.and_allOnes, BitVec.and_zero]
  rfl

theorem formatR_and_group (g : Nibble) (x y : Reg) (n : Nibble) :
    formatR g x y n &&& 0xF000#16 = formatR g 0 0 0#4 := formatA_and_group g _

theorem formatR_and_selector (g : Nibble) (x y : Reg) (n : Nibble) :
    formatR g x y n &&& 0xF00F#16 = formatR g 0 0 n := by
  have hmask : 0xF00F#16 = BitVec.allOnes 4 ++ (0#4 ++ (0#4 ++ BitVec.allOnes 4)) := rfl
  rw [hmask, formatR, BitVec.and_append, BitVec.and_append, BitVec.and_append, BitVec.and_allOnes, BitVec.and_allOnes,
    BitVec.and_zero, BitVec.and_zero]
  rfl

/-- The masked encoding is a row of the table: the operands are masked out. -/
theorem instrRow_mem (i : Instr) : instrRow i ∈ opcodeTable := by
  cases i <;> simp only [instrRow, encode, opcodeMask, Instr.mnemonic]
  case cls | ret => decide
  case jp | call | ldI | jpI => rw [formatA_and_group]; decide
  case seImm | sneImm | ldImm | addImm | rnd => rw [formatI_and_group]; decide
  case drw => rw [formatR_and_group]; decide
  case seReg | sneReg | ldReg | orReg | andReg | xorReg | addReg | sub | shr | subn | shl =>
    rw [formatR_and_selector]; decide
  case skp | sknp | ldVxDt | ldVxK | ldDtVx | ldStVx | addI | ldF | ldB | stRegs | ldRegs =>
    rw [formatI_and_selector]; decide

/-- Settles O3: a row that matches tells the instruction, and a valid opcode, which is the encoding of what it decodes
to, matches the row of that instruction. -/
theorem opcodeTableSelectsInstruction : Obligations.OpcodeTableSelectsInstruction := by
  refine ⟨rfl, fun op => ⟨fun r hr h => decode_of_matches hr h, fun hnone => ?_⟩⟩
  obtain ⟨i, hi⟩ | herr := decode_ok_or_error op
  · have hop : encode i = op := encode_of_classify (decode_eq_ok.1 hi)
    have hmatch : (instrRow i).Matches op := congrArg (· &&& opcodeMask i) hop.symm
    exact absurd hmatch (hnone _ (instrRow_mem i))
  · exact herr

/-! ### The invalid opcodes -/

theorem group_toNat {g : Nibble} (h : groupField op = g) : op.toNat / 4096 = g.toNat := by
  rw [← groupField_toNat, h]

theorem nField_eq_iff (op : Opcode) (n : Nibble) : nField op = n ↔ op.toNat % 16 = n.toNat := by
  rw [← BitVec.toNat_inj, nField_toNat]

theorem kkField_eq_iff (op : Opcode) (kk : Byte) : kkField op = kk ↔ op.toNat % 256 = kk.toNat := by
  rw [← BitVec.toNat_inj, kkField_toNat]

theorem eq_iff_toNat (op p : Opcode) : op = p ↔ op.toNat = p.toNat := BitVec.toNat_inj.symm

/-- Settles O5, by the groups of the decoder: with the group known one class of the list is left, and it names the
selectors that fall through the decoder's tests. -/
theorem invalidOpcodesAreExactly : Obligations.InvalidOpcodesAreExactly := fun op => by
  rw [decode_eq_error, and_iff_left rfl]
  unfold classify
  split
  case h_1 h =>
    rw [group_toNat h]
    split <;> simp_all [eq_iff_toNat]
  case h_6 h | h_10 h =>
    rw [group_toNat h]
    simp [nField_eq_iff]
  case h_9 h =>
    have hlt : op.toNat % 16 < 16 := Nat.mod_lt _ (by decide)
    rw [group_toNat h]
    split <;> simp_all [nField_eq_iff]
    omega
  case h_15 h | h_16 h =>
    rw [group_toNat h]
    split <;> simp_all [kkField_eq_iff]
  case h_17 => -- the sixteen groups are all there are
    exfalso
    have hlt := (groupField op).isLt
    simp_all only [imp_false, ← BitVec.toNat_inj, BitVec.toNat_ofNat]
    omega
  all_goals
    rename_i h
    rw [group_toNat h]; simp

/-- Settles O7: the decoder, run on each of the ten words. -/
theorem sampleWordsDecode : Obligations.SampleWordsDecode := by
  unfold Obligations.SampleWordsDecode
  decide

end Sys2Proof
end

section
/-! PROOF. JP_I, CALL and RET (40_control_transfer R122, R123, R128). -/

namespace Sys2Proof

open Sys2Proof.Machine Sys2Proof.Laws

theorem exec_jpI (nnn : Addr12) (s : State) : exec (.jpI nnn) s = .next (s.setPc (s.idx + zextAddr nnn)) := rfl

/-- Settles O31: the opcode is JP_I's encoding, and the execute step is one write of the program counter, with the sum
taken modulo 65536. -/
theorem jumpWithOffsetAddsIndex : Obligations.JumpWithOffsetAddsIndex := fun nnn s => by
  refine ⟨RoundTrip.jpI nnn rfl, _, exec_jpI nnn s, ?_, setPc_keeps s _⟩
  rw [setPc_pc, BitVec.toNat_add, zextAddr_toNat]

variable {s : State}

theorem exec_call (nnn : Addr12) (h : s.sp.val < 16) :
    exec (.call nnn) s = .next ((pushReturn s s.pc h).setPc (zextAddr nnn)) := dif_pos h

theorem exec_ret (h : 0 < s.sp.val) : exec .ret s = .next (popReturn s h) := dif_pos h

/-- A push writes the entry at the pointer and raises the pointer. -/
theorem pushReturn_stack (w : Word16) (h : s.sp.val < 16) (k : Fin 16) :
    (pushReturn s w h).stack[k.val] = if k.val = s.sp.val then w else s.stack[k.val] := by
  simp only [pushReturn, setSp_stack, setStackEntry_stack, Vector.getElem_set, eq_comm]

/-- Settles O32: the opcode is CALL's encoding; the execute step is a push and a write of the program counter, or the
fault of a full stack. -/
theorem callPushesAndJumps : Obligations.CallPushesAndJumps := fun nnn s =>
  ⟨RoundTrip.call nnn rfl,
    fun h => ⟨_, exec_call nnn h, zextAddr_toNat nnn, rfl, pushReturn_stack s.pc h, by simp [pushReturn]⟩,
    fun h => ⟨_, exec_of_faultsWith (k := .stackOverflow) ⟨nnn, rfl, h⟩, raiseFault_isFaultEntry _ _ s⟩⟩

/-- Settles O33: the opcode is RET's encoding; the execute step lowers the pointer and jumps to the entry there, or
takes the fault of an empty stack. -/
theorem retPopsIntoPc : Obligations.RetPopsIntoPc := fun s => by
  refine ⟨RoundTrip.ret rfl, fun k hk => ?_, fun h => ?_⟩
  · have hpop : s.sp.val - 1 = k.val := by omega
    refine ⟨_, exec_ret (by omega), ?_, hpop, by simp [popReturn]⟩
    simp only [popReturn, setPc_pc, hpop]
  · exact ⟨_, exec_of_faultsWith (k := .stackUnderflow) ⟨rfl, h⟩, raiseFault_isFaultEntry _ _ s⟩

/-- Settles O34: the return pops the entry that the call pushed. -/
theorem callThenRetRestores : Obligations.CallThenRetRestores := fun nnn s h => by
  refine ⟨_, _, exec_call nnn h, exec_ret (Nat.succ_pos _), ?_, ?_, fun k hk => ?_⟩
  · simp [popReturn, advancePc, pushReturn]
  · simp [popReturn, advancePc, pushReturn]
  · have hpush := pushReturn_stack s.pc h k
    rw [if_neg (by omega)] at hpush
    exact hpush

end Sys2Proof
end

section
/-! PROOF. The instructions with an immediate, the shifts, RND and the font address (41_immediate_index_random R141,
R144, R145; 42_alu R167, R169). -/

namespace Sys2Proof

open Sys2Proof.Machine Sys2Proof.Laws

theorem exec_addImm (x : Reg) (kk : Byte) (s : State) :
    exec (.addImm x kk) s =
      .next (writeResultAndFlag s x (sumByte (readV s x) kk) (carryOut (readV s x) kk)) := rfl

/-- Settles O39: the opcode is ADD_IMM's encoding, and the execute step writes the sum, then the carry. -/
theorem addImmediateSetsCarry : Obligations.AddImmediateSetsCarry := fun x kk s =>
  ⟨RoundTrip.addImm x kk rfl,
    exec_of_writeResultAndFlag (exec_addImm x kk s) (sumByte_toNat _ _) (carryOut_iff _ _)⟩

theorem exec_shr (x y : Reg) (s : State) :
    exec (.shr x y) s =
      .next (writeResultAndFlag s x (shiftedRight (readV s x)) (outRight (readV s x))) := rfl

theorem exec_shl (x y : Reg) (s : State) :
    exec (.shl x y) s =
      .next (writeResultAndFlag s x (shiftedLeft (readV s x)) (outLeft (readV s x))) := rfl

/-- Settles O42: both opcodes are encodings, and both execute steps write the shifted byte, then the bit pushed out;
neither reads `y`. -/
theorem shiftsSetShiftedOutBit : Obligations.ShiftsSetShiftedOutBit := fun x y s =>
  ⟨RoundTrip.shr x y rfl, RoundTrip.shl x y rfl,
    exec_of_writeResultAndFlag (exec_shr x y s) (shiftedRight_toNat _) (outRight_iff _),
    exec_of_writeResultAndFlag (exec_shl x y s) (shiftedLeft_toNat _) (outLeft_iff _)⟩

theorem exec_rnd (x : Reg) (kk : Byte) (s : State) : exec (.rnd x kk) s = .next (s.setV x (s.env.rnd &&& kk)) := rfl

/-- Settles O43: the opcode is RND's encoding, and the execute step is one write of the destination. -/
theorem randomByteIsMasked : Obligations.RandomByteIsMasked := fun x kk s => by
  refine ⟨RoundTrip.rnd x kk rfl, _, exec_rnd x kk s, setV_plainResult s x _, ?_⟩
  rw [readV_setV_same, BitVec.and_assoc, BitVec.and_not_self]
  exact BitVec.and_zero

theorem glyphAddress_toNat (b : Byte) : (glyphAddress b).toNat = 5 * (b.toNat % 16) := by
  simp only [glyphAddress, Config.fontBase, Config.glyphSize, BitVec.toNat_ofNat]
  omega

theorem exec_ldF (x : Reg) (s : State) : exec (.ldF x) s = .next (s.setIdx (glyphAddress (readV s x))) := rfl

/-- Settles O45: the opcode is LD_F's encoding, and the execute step is one write of the index register. -/
theorem fontGlyphAddress : Obligations.FontGlyphAddress := fun x s =>
  ⟨RoundTrip.ldF x rfl, _, exec_ldF x s, glyphAddress_toNat _, setIdx_keeps s _⟩

end Sys2Proof
end

section
/-! PROOF. The keypad (44_display_keypad R192 to R194; 47_interfaces R226) and the outputs (47_interfaces R232,
R233). -/

namespace Sys2Proof

open Sys2Proof.Machine Sys2Proof.Laws

variable {s : State}

theorem exec_skp {x k : Reg} (h : (readV s x).toNat = k.val) :
    exec (.skp x) s = .next (skipIf (decide (keyPressed s.env k = true)) s) := keyTest_inside _ true h

theorem exec_sknp {x k : Reg} (h : (readV s x).toNat = k.val) :
    exec (.sknp x) s = .next (skipIf (decide (keyPressed s.env k = false)) s) := keyTest_inside _ false h

/-- A key test above 15 is the fault entry. -/
theorem exec_keyTest_outside {i : Instr} {x : Reg} (hi : i = .skp x ∨ i = .sknp x) (hx : 15 < (readV s x).toNat) :
    ∃ t, exec i s = .next t ∧ IsFaultEntry .keyIndexOutOfRange (encode i) s t :=
  ⟨_, exec_of_faultsWith (k := .keyIndexOutOfRange) ⟨x, hi, hx⟩, raiseFault_isFaultEntry _ _ s⟩

/-- Settles O52: both opcodes are encodings, and both execute steps are a skip on the key's state, or the fault. -/
theorem skipOnKey : Obligations.SkipOnKey := fun x _ =>
  ⟨RoundTrip.skp x rfl, RoundTrip.sknp x rfl,
    fun _ hk => ⟨exec_of_skipIf (exec_skp hk) decide_eq_true_iff, exec_of_skipIf (exec_sknp hk) decide_eq_true_iff⟩,
    fun hx => ⟨exec_keyTest_outside (.inl rfl) hx, exec_keyTest_outside (.inr rfl) hx⟩⟩

theorem zextKey_toNat (k : Reg) : (zextKey k).toNat = k.val := by
  rw [zextKey, BitVec.toNat_ofNat]
  omega

theorem exec_ldVxK_some {x k : Reg} (h : getPressedKey s.env = some k) :
    exec (.ldVxK x) s = .next (s.setV x (zextKey k)) := by
  simp only [exec, execLdVxK, h]

theorem exec_ldVxK_none {x : Reg} (h : getPressedKey s.env = none) : exec (.ldVxK x) s = .next (rewindPc s) := by
  simp only [exec, execLdVxK, h]

/-- Settles O53: the opcode is LD_VX_K's encoding; with a key reported the execute step is one write of the destination,
with none it is the step back of the program counter. -/
theorem blockForKey : Obligations.BlockForKey := fun x s => by
  refine ⟨RoundTrip.ldVxK x rfl, fun k hk => ?_, fun hn => ⟨_, exec_ldVxK_none hn, rfl, rewindPc_keeps s⟩⟩
  obtain ⟨hx, hframe⟩ := setV_plainResult s x (zextKey k)
  exact ⟨_, exec_ldVxK_some hk, by rw [hx, zextKey_toNat], hframe⟩

/-- A pressed key that the collaborator prefers is the key it reports. -/
theorem getPressedKey_preferred (e : Env) {k : Reg} (h : keyPressed e k = true) :
    getPressedKey { e with keyPick := k } = some k := if_pos h

/-- Settles O54. -/
theorem reportedKeyIsAPressedKey : Obligations.ReportedKeyIsAPressedKey := fun e => by
  refine ⟨?_, ?_, fun k hk => ⟨k, getPressedKey_preferred e hk⟩⟩
  all_goals obtain ⟨k, hsome, hk⟩ | ⟨hnone, hall⟩ := getPressedKey_cases e
  · refine ⟨fun h => ?_, fun h => ?_⟩
    · rw [h] at hsome; cases hsome
    · rw [h k] at hk; cases hk
  · exact ⟨fun _ => hall, fun _ => hnone⟩
  · intro j hj
    rw [hsome] at hj; cases hj
    exact hk
  · intro j hj
    rw [hnone] at hj; cases hj

/-- Settles O56. -/
theorem outputsFollowTheState : Obligations.OutputsFollowTheState :=
  ⟨fun s => ⟨audioEnable_iff s, decide_eq_true_iff, decide_eq_true_iff⟩, fun k => by cases k <;> rfl⟩

end Sys2Proof
end

section
/-! PROOF. The memory instructions (43_memory_ops R180 to R183; 20_memory R62, R65, R75). -/

namespace Sys2Proof

open Sys2Proof.Machine Sys2Proof.Laws

variable {s : State}

/-! ### Blocks -/

/-- A byte inside a stored block, by its offset. -/
theorem memRead_storeBytes_at (s : State) (a : Nat) (bs : List Byte) {k : Nat} (hk : k < bs.length) :
    memRead (storeBytes s a bs) (a + k) = bs[k] := by
  rw [memRead_storeBytes, dif_pos ⟨Nat.le_add_right a k, by omega⟩]
  simp

/-- A byte at none of the addresses of a stored block is as before. -/
theorem memRead_storeBytes_outside (s : State) (a : Nat) (bs : List Byte) {c : Nat}
    (hc : ∀ k < bs.length, c ≠ a + k) : memRead (storeBytes s a bs) c = memRead s c := by
  rw [memRead_storeBytes, dif_neg]
  rintro ⟨hle, hlt⟩
  exact hc _ hlt (by omega)

theorem length_registerBlock (s : State) (x : Reg) : (registerBlock s x).length = x.val + 1 := by
  simp [registerBlock]

theorem getElem_registerBlock (s : State) (x : Reg) {k : Nat} (hk : k < (registerBlock s x).length) :
    (registerBlock s x)[k] = readV s ⟨k, by rw [length_registerBlock] at hk; omega⟩ := by
  simp [registerBlock, readV]

/-- A footprint beyond memory is the fault entry. -/
theorem exec_footprint_outside {i : Instr} (h : FaultsWith s i .memoryOutOfRange) :
    ∃ t, exec i s = .next t ∧ IsFaultEntry .memoryOutOfRange (encode i) s t :=
  ⟨_, exec_of_faultsWith h, raiseFault_isFaultEntry _ _ s⟩

/-! ### LD_B -/

theorem exec_ldB {x : Reg} (h : s.idx.toNat + 2 ≤ 4095) :
    exec (.ldB x) s = .next (storeBytes s (effectiveAddress s 0) (decimalDigits (readV s x))) :=
  withFootprint_inside _ (.inr h)

/-- Each digit as a number: it is below 10, so its byte loses nothing. -/
theorem decimalDigits_toNat (b : Byte) :
    (decimalDigits b).map BitVec.toNat = [b.toNat / 100, b.toNat / 10 % 10, b.toNat % 10] := by
  have hb := b.isLt
  simp only [decimalDigits, List.map_cons, List.map_nil, BitVec.toNat_ofNat, List.cons.injEq, and_true]
  omega

theorem memRead_digit (b : Byte) {k : Nat} (hk : k < 3) :
    (memRead (storeBytes s (effectiveAddress s 0) (decimalDigits b)) (effectiveAddress s k)).toNat =
      [b.toNat / 100, b.toNat / 10 % 10, b.toNat % 10][k] := by
  have hlen : k < ((decimalDigits b).map BitVec.toNat).length := hk
  have hdigit : (memRead (storeBytes s (effectiveAddress s 0) (decimalDigits b)) (effectiveAddress s k)).toNat =
      ((decimalDigits b).map BitVec.toNat)[k] := by
    rw [List.getElem_map]
    exact congrArg BitVec.toNat (memRead_storeBytes_at s _ _ hk)
  simpa only [decimalDigits_toNat] using hdigit

/-- Settles O46: the opcode is LD_B's encoding; the execute step is one store of the block of three digits, or the
fault. -/
theorem decimalDigitsAreStored : Obligations.DecimalDigitsAreStored := fun x s => by
  refine ⟨RoundTrip.ldB x rfl, fun h => ?_, fun h => exec_footprint_outside (.inr (.inl ⟨x, rfl, h⟩))⟩
  refine ⟨_, exec_ldB h, memRead_digit _ (by decide), memRead_digit _ (by decide), memRead_digit _ (by decide),
    fun a ha => ?_, storeBytes_keeps s _ _⟩
  exact memRead_storeBytes_outside s _ _ ha

/-! ### ST_REGS -/

theorem exec_stRegs {x : Reg} (h : s.idx.toNat + x.val ≤ 4095) :
    exec (.stRegs x) s = .next (storeBytes s (effectiveAddress s 0) (registerBlock s x)) :=
  withFootprint_inside _ (.inr h)

theorem memRead_registerBlock {x k : Reg} (hk : k ≤ x) :
    memRead (storeBytes s (effectiveAddress s 0) (registerBlock s x)) (s.idx.toNat + k.val) = readV s k := by
  have hlen : k.val < (registerBlock s x).length := by
    rw [length_registerBlock]; exact Nat.lt_succ_of_le hk
  exact (memRead_storeBytes_at s _ _ hlen).trans (getElem_registerBlock s x hlen)

/-- Settles O47: the opcode is ST_REGS's encoding; the execute step is one store of the register block, or the fault. -/
theorem registerBlockIsStored : Obligations.RegisterBlockIsStored := fun x s => by
  refine ⟨RoundTrip.stRegs x rfl, fun h => ?_, fun h => exec_footprint_outside (.inr (.inr ⟨x, .inl rfl, h⟩))⟩
  refine ⟨_, exec_stRegs h, fun k hk => memRead_registerBlock hk, fun a ha => ?_, storeBytes_keeps s _ _⟩
  refine memRead_storeBytes_outside s _ _ fun k hk => ?_
  rw [length_registerBlock] at hk
  exact ha ⟨k, by omega⟩ (Nat.le_of_lt_succ hk)

/-- Settles O29: both bytes of the opcode at `I + k` lie in the block just stored. -/
theorem storeIsSeenByTheNextFetch : Obligations.StoreIsSeenByTheNextFetch := fun s x h => by
  refine ⟨_, exec_stRegs h, fun k hk => ?_⟩
  have hpc : (s.idx + BitVec.ofNat 16 k).toNat = s.idx.toNat + k := by
    rw [BitVec.toNat_add, BitVec.toNat_ofNat]; omega
  have hhigh := memRead_registerBlock (s := s) (x := x) (k := ⟨k, by omega⟩) (Nat.le_of_succ_le hk)
  have hlow := memRead_registerBlock (s := s) (x := x) (k := ⟨k + 1, by omega⟩) hk
  have hfetch := Memory.fetchWord_inside (g := s.config)
    (storeBytes s (effectiveAddress s 0) (registerBlock s x)).mem (a := s.idx + BitVec.ofNat 16 k) (by omega)
  rw [hpc] at hfetch
  rw [← hhigh, ← hlow]
  exact hfetch

/-! ### LD_REGS -/

theorem exec_ldRegs {x : Reg} (h : s.idx.toNat + x.val ≤ 4095) :
    exec (.ldRegs x) s = .next (s.setRegs (loadedRegs s x)) := withFootprint_inside _ (.inr h)

theorem readV_loadedRegs (s : State) (x k : Reg) :
    readV (s.setRegs (loadedRegs s x)) k =
      if k ≤ x then memRead s (effectiveAddress s k.val) else readV s k := by
  simp [loadedRegs]

/-- Settles O48: the opcode is LD_REGS's encoding; the execute step is one write of the register file, or the fault. -/
theorem registerBlockIsLoaded : Obligations.RegisterBlockIsLoaded := fun x s => by
  refine ⟨RoundTrip.ldRegs x rfl, fun h => ?_, fun h => exec_footprint_outside (.inr (.inr ⟨x, .inr rfl, h⟩))⟩
  refine ⟨_, exec_ldRegs h, fun k hk => ?_, fun k hk => ?_, by simp⟩
  · rw [readV_loadedRegs, if_pos hk]
  · rw [readV_loadedRegs, if_neg hk]

end Sys2Proof
end

section
/-! PROOF. Reset and the host's loads (10_state R41; 70_reset_and_hazards R310 to R315). -/

namespace Sys2Proof

open Sys2Proof.Machine

/-! ### Reset -/

/-- A reset of an allowed machine in an environment of it meets the invariant. -/
theorem inv_resetWith {c : Config} {e : Env} (hc : c.wf = true) (he : EnvInv c e) : Inv (State.resetWith c e) := by
  obtain ⟨hfb, hnow⟩ := redraw_envInv he
  exact ⟨hc, rfl, by simp [State.resetWith], ⟨hfb, hnow⟩, redraw_now c e⟩

/-- Settles O24. -/
theorem resetMeetsInvariant : Obligations.ResetMeetsInvariant :=
  ⟨inv_resetWith (by decide) (powerOn_envInv _), fun c hc => inv_resetWith hc (powerOn_envInv c),
    fun _ hc he => inv_resetWith hc he⟩

/-- After a reset memory holds the font of the configuration below 80, and zero above it. -/
theorem memRead_resetWith_font (c : Config) (e : Env) {a : Nat} (h : a < 80) :
    memRead (State.resetWith c e) a = c.fontData[a] := dif_pos ⟨Nat.zero_le a, h⟩

theorem memRead_resetWith_zero (c : Config) (e : Env) {a : Nat} (h : 80 ≤ a) :
    memRead (State.resetWith c e) a = 0x00#8 := dif_neg fun hfont => absurd hfont.2 (Nat.not_lt.2 h)

/-- Settles O25: the registers and the stack are constant vectors, memory is empty of changes, and every other element
is written with its value. -/
theorem resetValues : Obligations.ResetValues := by
  refine ⟨⟨_, rfl⟩, fun s => ⟨rfl, fun r => ?_, fun k => ?_, fun a h => memRead_resetWith_font _ _ h,
    fun a h => memRead_resetWith_zero _ _ h, rfl, rfl, rfl, rfl, rfl, rfl, rfl, rfl, rfl, rfl, rfl⟩⟩
  · exact Vector.getElem_replicate r.isLt
  · exact Vector.getElem_replicate k.isLt

/-! ### The load of an image -/

variable {s : State} {bytes : List Byte}

/-- Inside its contract the load is one store of the bytes at 0x200. -/
theorem loadImage_inside (hlen : bytes.length ≤ 3584) (hs : s.started = false) (hr : s.runState = .running) :
    loadImage bytes s = .next (storeBytes s 0x200 bytes) := by
  have hopen : ¬ (s.started = true ∨ s.runState ≠ .running) := by simp [hs, hr]
  rw [loadImage, if_neg (Nat.not_lt.2 hlen), if_neg hopen]
  rfl

/-- A store inside memory keeps the invariant. -/
theorem inv_storeBytes {a : Nat} (ha : a + bytes.length ≤ 4096) (hs : Inv s) : Inv (storeBytes s a bytes) := by
  obtain ⟨hc, hm, hf, he, ht⟩ := hs
  exact ⟨hc, Memory.wf_writeBytes hm ha, hf, he, ht⟩

/-- Settles O26. -/
theorem loadImageCopiesBytes : Obligations.LoadImageCopiesBytes := fun s bytes hlen hs hr => by
  refine ⟨_, loadImage_inside hlen hs hr, fun j hj => memRead_storeBytes_at s _ _ hj, fun a ha => ?_,
    storeBytes_keeps s _ _, inv_storeBytes (by omega)⟩
  exact memRead_storeBytes_outside s _ _ fun k hk => by omega

/-- Settles O27. -/
theorem loadImageRefusedOutsideContract : Obligations.LoadImageRefusedOutsideContract := fun s bytes =>
  ⟨fun hlong => if_pos hlong, fun hlen hlate => by rw [loadImage, if_neg (Nat.not_lt.2 hlen), if_pos hlate]⟩

/-! ### The fetch of what was stored -/

/-- Two bytes stored at `pc`, inside memory, are the opcode fetched there. -/
theorem fetchOpcode_storeBytes {b c : Byte} {rest : List Byte} {a : Nat} (hpc : s.pc.toNat = a) (ha : a + 1 ≤ 4095) :
    fetchOpcode (storeBytes s a (b :: c :: rest)) = b ++ c := by
  subst hpc
  have hfirst := memRead_storeBytes_at s s.pc.toNat (b :: c :: rest) (k := 0) (by simp)
  have hsecond := memRead_storeBytes_at s s.pc.toNat (b :: c :: rest) (k := 1) (by simp)
  have hfetch := Memory.fetchWord_inside (g := s.config) (storeBytes s s.pc.toNat (b :: c :: rest)).mem ha
  exact hfetch.trans (congrArg₂ (· ++ ·) hfirst hsecond)

/-- Settles O28. -/
theorem firstFetchIsTheImage : Obligations.FirstFetchIsTheImage := fun s b c rest hlen =>
  ⟨_, loadImage_inside (by simp only [List.length_cons]; omega) rfl rfl, rfl,
    fetchOpcode_storeBytes (s := assertReset s) rfl (by decide)⟩

/-- The address the placed word goes to can be fetched from. -/
theorem fetchablePc_inside (s : State) : (fetchablePc s).toNat + 1 ≤ 4095 := by
  unfold fetchablePc
  split
  · assumption
  · decide

/-- The opcode at `pc` after a word was placed. -/
theorem fetchOpcode_withFetchWord (s : State) (nbits w : Nat) :
    fetchOpcode (s.withFetchWord nbits w) = tableWord nbits w := by
  have hfetch := fetchOpcode_storeBytes (s := s.setPc (fetchablePc s)) (b := highByte (tableWord nbits w))
    (c := lowByte (tableWord nbits w)) (rest := []) rfl (fetchablePc_inside s)
  exact hfetch.trans (highByte_append_lowByte _)

/-- Settles O59. -/
theorem placedWordIsFetched : Obligations.PlacedWordIsFetched := fun s w => by
  refine ⟨⟨rfl, rfl⟩, ?_, fun i hi => ?_⟩
  · rw [fetchOpcode_withFetchWord, tableWord]
    exact BitVec.eq_of_toNat_eq (by simp)
  · rw [decodeTableWord_eq] at hi
    rw [Fetches, fetchOpcode_withFetchWord]
    exact decode_eq_ok.2 hi

end Sys2Proof
end

section
/-! PROOF. DRW (44_display_keypad R191; 47_interfaces R223). -/

namespace Sys2Proof

open Sys2Proof.Machine Sys2Proof.Laws

variable {s : State} {x0 y0 n : Nat}

/-! ### The 1 bits of a sprite -/

/-- The lit columns of a row are its 1 bits, counted from the other end. -/
theorem length_litColumns (b : Byte) :
    (litColumns b).length = ((List.range 8).filter fun k => b.getLsbD k).length := by
  have hreverse : (List.range 8).map (7 - ·) = (List.range 8).reverse := by decide
  calc (litColumns b).length = (((List.range 8).map (7 - ·)).filter fun k => b.getLsbD k).length := by
        rw [List.filter_map, List.length_map]; rfl
    _ = ((List.range 8).filter fun k => b.getLsbD k).length := by
        rw [hreverse, List.filter_reverse, List.length_reverse]

theorem length_spriteCalls (c : Config) (x0 y0 row : Nat) (rows : List Byte) :
    (spriteCalls c x0 y0 row rows).length =
      (rows.map fun b => ((List.range 8).filter fun k => b.getLsbD k).length).sum := by
  induction rows generalizing row with
  | nil => rfl
  | cons b rows ih =>
    rw [spriteCalls, List.length_append, List.length_map, length_litColumns, ih, List.map_cons, List.sum_cons]

/-- Settles O51, by induction on the rows. -/
theorem oneCallPerLitBit : Obligations.OneCallPerLitBit := fun c x0 y0 row rows =>
  ⟨length_spriteCalls c x0 y0 row rows, fun hc => spriteCalls_inGrid hc x0 y0 row rows⟩

/-- The calls of a draw name the pixels under 1 bits. -/
theorem mem_spriteCalls_iff_underLitBit {px py : Nat} :
    (px, py) ∈ spriteCalls s.config x0 y0 0 (spriteRows s n) ↔ UnderLitBit s x0 y0 n px py := by
  have hrow : ∀ k (hk : k < (spriteRows s n).length), (spriteRows s n)[k] = memRead s (s.idx.toNat + k) :=
    fun k hk => Memory.getElem_readBytes s.mem _ n k (by simpa [spriteRows] using hk)
  simp only [mem_spriteCalls, UnderLitBit, LitBitOver, hrow, Prod.mk.injEq, Nat.zero_add]
  simp only [spriteRows, Memory.length_readBytes, exists_prop]

/-- A pixel lies under a 1 bit exactly when at least one 1 bit lies over it. -/
theorem underLitBit_iff {px py : Nat} : UnderLitBit s x0 y0 n px py ↔ 1 ≤ litBitsOver s x0 y0 n px py := by
  rw [← mem_spriteCalls_iff_underLitBit, ← count_spriteCalls, List.one_le_count_iff]

/-- On a display of at least 8 by `n` pixels no two 1 bits lie over one pixel. -/
theorem litBitsOver_le_one (hw : 8 ≤ s.config.displayWidth) (hh : n ≤ s.config.displayHeight) (px py : Nat) :
    litBitsOver s x0 y0 n px py ≤ 1 := by
  rw [← count_spriteCalls]
  refine List.nodup_iff_count_le_one.1 (spriteCalls_nodup hw ?_) _
  simpa [spriteRows] using hh

/-! ### One draw -/

theorem exec_drw {x y : Reg} (h : n = 0 ∨ s.idx.toNat + n - 1 ≤ 4095) :
    exec (.drw x y n) s = .next (drawSprite s x y n) := withFootprint_inside _ (by omega)

/-- A draw writes the flag and the framebuffer only. -/
theorem drawSprite_keeps (s : State) (x y : Reg) (n : Nat) :
    KeepsRegsBut (fun r => r = regVF) s (drawSprite s x y n) ∧ (drawSprite s x y n).pc = s.pc ∧
      (drawSprite s x y n).idx = s.idx ∧ KeepsCallStack s (drawSprite s x y n) ∧
      KeepsTimers s (drawSprite s x y n) ∧ KeepsMemory s (drawSprite s x y n) ∧
      KeepsControl s (drawSprite s x y n) :=
  ⟨fun _ hr => readV_setV_ne _ _ hr, by simp [drawSprite]⟩

/-- A draw turns a pixel over exactly when an odd number of 1 bits lie over it. -/
theorem drawSprite_pixel (s : State) (x y : Reg) (n px py : Nat) :
    pixel (drawSprite s x y n).env.fb px py ≠ pixel s.env.fb px py ↔
      litBitsOver s (readV s x).toNat (readV s y).toNat n px py % 2 = 1 := by
  have hpixel := pixel_drawCalls (spriteCalls s.config (readV s x).toNat (readV s y).toNat 0 (spriteRows s n))
    s.env.fb false px py
  rw [count_spriteCalls] at hpixel
  rw [show pixel (drawSprite s x y n).env.fb px py = _ from hpixel]
  cases pixel s.env.fb px py <;> simp

theorem flagByte_le (f : Bool) : flagByte f ≤ 1#8 := by cases f <;> decide

theorem flagByte_eq_one (f : Bool) : flagByte f = 1#8 ↔ f = true := by cases f <;> decide

/-- The flag after a draw. -/
theorem drawSprite_flag (s : State) (x y : Reg) (n : Nat) :
    readV (drawSprite s x y n) regVF = flagByte (drawCalls s.env.fb false
      (spriteCalls s.config (readV s x).toNat (readV s y).toNat 0 (spriteRows s n))).2 := readV_setV_same _ _ _

/-- The flag tells whether a toggle turned a set pixel off: one that was set before the draw, or one that an earlier 1
bit of the draw had set. -/
theorem drawSprite_flag_iff (s : State) (x y : Reg) (n : Nat) :
    readV (drawSprite s x y n) regVF = 1#8 ↔
      ∃ px py, 1 ≤ litBitsOver s (readV s x).toNat (readV s y).toNat n px py ∧
        (pixel s.env.fb px py = true ∨ 2 ≤ litBitsOver s (readV s x).toNat (readV s y).toNat n px py) := by
  rw [drawSprite_flag, flagByte_eq_one, drawCalls_collision]
  simp only [count_spriteCalls, Bool.false_eq_true, false_or]

/-- Settles O50: the opcode is DRW's encoding; the execute step makes the calls of the sprite, or takes the fault. On a
large enough display at most one 1 bit lies over a pixel, which is then under a 1 bit exactly when the number is odd. -/
theorem drawTogglesLitPixels : Obligations.DrawTogglesLitPixels := fun x y n s hn => by
  refine ⟨RoundTrip.drw x y n (decide_eq_true hn), fun hr => ?_, fun hn1 hr =>
    exec_footprint_outside (.inl ⟨x, y, n, rfl, hn1, hr⟩)⟩
  refine ⟨_, exec_drw hr, drawSprite_pixel s x y n, ?_, drawSprite_flag_iff s x y n, fun hw hh => ⟨?_, ?_⟩,
    drawSprite_keeps s x y n⟩
  · rw [drawSprite_flag]; exact flagByte_le _
  · intro px py
    have hone := litBitsOver_le_one (x0 := (readV s x).toNat) (y0 := (readV s y).toNat) hw hh px py
    rw [drawSprite_pixel, underLitBit_iff]
    omega
  · rw [drawSprite_flag_iff]
    refine exists_congr fun px => exists_congr fun py => ?_
    have hone := litBitsOver_le_one (x0 := (readV s x).toNat) (y0 := (readV s y).toNat) hw hh px py
    have htwo : ¬ 2 ≤ litBitsOver s (readV s x).toNat (readV s y).toNat n px py := by omega
    rw [underLitBit_iff, or_iff_left htwo, and_comm]

end Sys2Proof
end

section
/-! PROOF. What the execute step of an instruction cannot read (47_interfaces R225, R226, R229). -/

namespace Sys2Proof

open Sys2Proof.Machine

/-- The state with other answers of the environment. -/
def mapEnv (f : Env → Env) (s : State) : State := s.setEnv (f s.env)

/-- A change of the environment that leaves the framebuffer alone and does not look at it. -/
structure KeepsPicture (f : Env → Env) : Prop where
  fb : ∀ e, (f e).fb = e.fb
  setFb : ∀ e fb, f { e with fb := fb } = { f e with fb := fb }

/-- The instruction that asks for the random byte (R229). -/
def ReadsRandomByte (i : Instr) : Prop := ∃ x kk, i = .rnd x kk

/-- The instructions that ask for the keys (R225, R226). -/
def ReadsKeys (i : Instr) : Prop := ∃ x, i = .skp x ∨ i = .sknp x ∨ i = .ldVxK x

variable {f : Env → Env} {s t : State}

theorem skipIf_mapEnv (c : Bool) : skipIf c (mapEnv f s) = mapEnv f (skipIf c s) := by cases c <;> rfl

theorem setFb_mapEnv (hf : KeepsPicture f) (fb : Framebuffer) : (mapEnv f s).setFb fb = mapEnv f (s.setFb fb) := by
  exact congrArg s.setEnv (hf.setFb s.env fb).symm

theorem withFootprint_mapEnv {i : Instr} {len : Nat} {e : State} (h : withFootprint i len s e = .next t) :
    withFootprint i len (mapEnv f s) (mapEnv f e) = .next (mapEnv f t) := by
  have hrange : footprintInRange (mapEnv f s) len = footprintInRange s len := rfl
  unfold withFootprint at h ⊢
  rw [hrange]
  by_cases hr : footprintInRange s len = true
  · rw [if_pos hr] at h ⊢; cases h; rfl
  · rw [if_neg hr] at h ⊢; cases h; rfl

theorem drawSprite_mapEnv (hf : KeepsPicture f) (x y : Reg) (n : Nat) :
    drawSprite (mapEnv f s) x y n = mapEnv f (drawSprite s x y n) := by
  have hfb : (mapEnv f s).env.fb = s.env.fb := hf.fb s.env
  simp only [drawSprite, hfb, setFb_mapEnv hf]
  rfl

theorem setRegs_mapEnv (v : Vector Byte 16) : (mapEnv f s).setRegs v = mapEnv f (s.setRegs v) := rfl

theorem loadedRegs_mapEnv (x : Reg) : loadedRegs (mapEnv f s) x = loadedRegs s x := rfl

theorem keyPressed_of_keys {e e' : Env} (h : e'.keys = e.keys) : keyPressed e' = keyPressed e := by
  funext k; rw [keyPressed, keyPressed, h]

theorem getPressedKey_of_keys {e e' : Env} (h : e'.keys = e.keys) (hp : e'.keyPick = e.keyPick) :
    getPressedKey e' = getPressedKey e := by
  rw [getPressedKey, getPressedKey, keyPressed_of_keys h, hp]

theorem keyTest_mapEnv {i : Instr} {x : Reg} {p : Bool} (hk : ∀ e, (f e).keys = e.keys)
    (h : keyTest i x p s = .next t) : keyTest i x p (mapEnv f s) = .next (mapEnv f t) := by
  by_cases hx : 15 < (readV s x).toNat
  · rw [keyTest_outside i p hx] at h; cases h
    exact keyTest_outside i p hx
  · have hreg : (readV s x).toNat = (⟨(readV s x).toNat, by omega⟩ : Reg).val := rfl
    rw [keyTest_inside i p hreg] at h; cases h
    rw [← skipIf_mapEnv, ← keyPressed_of_keys (hk s.env)]
    exact keyTest_inside (s := mapEnv f s) i p hreg

/-- An execute step does the same in another environment with the same picture, where it asks for nothing that
differs. -/
theorem exec_mapEnv {i : Instr} (hf : KeepsPicture f) (hrnd : ReadsRandomByte i → ∀ e, (f e).rnd = e.rnd)
    (hkeys : ReadsKeys i → ∀ e, (f e).keys = e.keys ∧ (f e).keyPick = e.keyPick) (h : exec i s = .next t) :
    exec i (mapEnv f s) = .next (mapEnv f t) := by
  cases i with
  | cls =>
    cases h
    exact congrArg Host.Outcome.next (setFb_mapEnv hf (dispClear s.env.fb))
  | call nnn =>
    by_cases hsp : s.sp.val < 16
    · rw [exec_call nnn hsp] at h; cases h
      exact exec_call (s := mapEnv f s) nnn hsp
    · rw [exec_of_faultsWith (k := .stackOverflow) ⟨nnn, rfl, by omega⟩] at h; cases h
      exact exec_of_faultsWith (s := mapEnv f s) (k := .stackOverflow) ⟨nnn, rfl, show s.sp.val = 16 by omega⟩
  | ret =>
    by_cases hsp : 0 < s.sp.val
    · rw [exec_ret hsp] at h; cases h
      exact exec_ret (s := mapEnv f s) hsp
    · rw [exec_of_faultsWith (k := .stackUnderflow) ⟨rfl, by omega⟩] at h; cases h
      exact exec_of_faultsWith (s := mapEnv f s) (k := .stackUnderflow) ⟨rfl, show s.sp.val = 0 by omega⟩
  | drw x y n =>
    have hdraw := withFootprint_mapEnv (f := f) h
    rw [← drawSprite_mapEnv hf] at hdraw
    exact hdraw
  | ldRegs x =>
    have hload := withFootprint_mapEnv (f := f) h
    rw [← setRegs_mapEnv, ← loadedRegs_mapEnv (f := f)] at hload
    exact hload
  | ldB | stRegs => exact withFootprint_mapEnv h
  | skp x => exact keyTest_mapEnv (fun e => (hkeys ⟨x, .inl rfl⟩ e).1) h
  | sknp x => exact keyTest_mapEnv (fun e => (hkeys ⟨x, .inr (.inl rfl)⟩ e).1) h
  | ldVxK x =>
    obtain ⟨hk, hp⟩ := hkeys ⟨x, .inr (.inr rfl)⟩ s.env
    have hkey : getPressedKey (mapEnv f s).env = getPressedKey s.env := getPressedKey_of_keys hk hp
    cases hg : getPressedKey s.env with
    | none =>
      rw [exec_ldVxK_none hg] at h; cases h
      exact exec_ldVxK_none (hkey.trans hg)
    | some k =>
      rw [exec_ldVxK_some hg] at h; cases h
      exact exec_ldVxK_some (hkey.trans hg)
  | rnd x kk =>
    cases h
    rw [← hrnd ⟨x, kk, rfl⟩ s.env]
    rfl
  | seImm | sneImm | seReg | sneReg =>
    cases h
    exact congrArg _ (skipIf_mapEnv _)
  | jp | ldImm | addImm | ldReg | orReg | andReg | xorReg | addReg | sub | shr | subn | shl | ldI | jpI | ldVxDt
  | ldDtVx | ldStVx | addI | ldF => cases h; rfl

/-- Settles O57. -/
theorem onlyRndReadsTheRandomByte : Obligations.OnlyRndReadsTheRandomByte := fun _ _ _ b hi h =>
  exec_mapEnv (f := fun e => { e with rnd := b }) ⟨fun _ => rfl, fun _ _ => rfl⟩
    (fun ⟨x, kk, hrnd⟩ => absurd hrnd (hi x kk)) (fun _ _ => ⟨rfl, rfl⟩) h

/-- Settles O58. -/
theorem onlyKeyInstructionsReadTheKeys : Obligations.OnlyKeyInstructionsReadTheKeys := fun _ _ _ ks p hi h => by
  refine exec_mapEnv (f := fun e => { e with keys := ks, keyPick := p }) ⟨fun _ => rfl, fun _ _ => rfl⟩
    (fun _ _ => rfl) (fun ⟨x, hkey⟩ => ?_) h
  obtain ⟨hskp, hsknp, hldVxK⟩ := hi x
  obtain rfl | rfl | rfl := hkey <;> contradiction

end Sys2Proof
end
